-- ==== Sys2Proof/Word.lean ====
section
/-! DEFINITION. The word types of the core: 32-bit registers, 16-bit counters and samples (rule R9), and the
binary32 datum (rule R14).  The arithmetic on them is in `Machine/Float32.lean` and `Machine/Operands.lean`. -/

namespace Sys2Proof

/-- A 32-bit register, bus word or microsecond count (rule R9). -/
abbrev Word := BitVec 32

/-- A 16-bit consecutive-event counter or raw ADC sample (rule R9). -/
abbrev Half := BitVec 16

/-- A binary32 datum, held as its IEEE 754 pattern (rules R14, R16).

All NaN patterns stand for the one NaN datum: the pattern a host reads for it is `NUM_NAN`, which `F32.bits`
supplies (rule R14). -/
structure F32 where
  /-- the IEEE 754 binary32 pattern -/
  pat : Word
deriving DecidableEq, Repr

/-- A commutation step, an integer 0..5 (rule R50).  Addition wraps from 5 to 0 (rule R34). -/
abbrev StepIx := Fin 6

end Sys2Proof
end

