-- ==== Sys2Proof/Syntax.lean ====
section
/-! DEFINITION. What the core can be given: the 22 commands of rule R156 and the 9 events of rule R161, one
constructor of `Instr` for each row of the opcode table, and the raw records the environment supplies. -/

namespace Sys2Proof

/-- A rotation direction: CW = 0, CCW = 1 (rule R50). -/
inductive Dir where
  | cw
  | ccw
deriving DecidableEq, Repr

/-- DESIGN CHOICE (log 8, safe): the width of a host bus access (rules R12, R102) is an operand of the host events.  Only a four-byte access is legal; the others exist so that
the access error of rule R102 can be modelled. -/
inductive AccessWidth where
  | four
  | one
  | two
  | eight
deriving DecidableEq, Repr

/-- Every command and every event of the core, one constructor per row of the opcode table.

The time `t` of an event is not an operand: every input record carries it (rule R111) and the machine reads it
from its time port.  A command happens at the time of the `HOST_WRITE` that carries it (rule R151). -/
inductive Instr where
  /-- OPC 0x00, rule R450 -/
  | nop
  /-- OPC 0x01, rule R220 -/
  | bemfInit
  /-- OPC 0x02, rule R223 -/
  | bemfReset
  /-- OPC 0x03, rule R221 -/
  | bemfClearFlag
  /-- OPC 0x04, rule R222 -/
  | bemfGetStatus
  /-- OPC 0x10, rule R255 -/
  | schedStart
  /-- OPC 0x11, rule R256 -/
  | schedCancel
  /-- OPC 0x12, rule R258 -/
  | schedIsActive
  /-- OPC 0x20, rule R296; `d` is bit 8 -/
  | rampStart (d : Dir)
  /-- OPC 0x21, rule R297 -/
  | rampStop
  /-- OPC 0x22, rule R298 -/
  | rampStopSoft
  /-- OPC 0x23, rule R295 -/
  | rampGetState
  /-- OPC 0x30, rule R336; `d` is bit 8, `step` is bits [11:9] -/
  | invCommutate (d : Dir) (step : BitVec 3)
  /-- OPC 0x31, rule R337 -/
  | invDisable
  /-- OPC 0x32, rule R338; `phase` is bits [11:9], `st` is bits [14:12] -/
  | invSetPhase (phase st : BitVec 3)
  /-- OPC 0x40, rule R410 -/
  | setSpeed
  /-- OPC 0x41, rule R451 -/
  | motorStop
  /-- OPC 0x42, rule R409 -/
  | setSlope
  /-- OPC 0x43, rule R452 -/
  | faultClear
  /-- OPC 0x44, rule R408 -/
  | pidReset
  /-- OPC 0x45, rule R453 -/
  | telemetry
  /-- OPC 0x46, rule R454 -/
  | clearSticky
  /-- event 0x0, rule R530 -/
  | reset
  /-- event 0x1, rule R200: the phase currents, then the phase voltages -/
  | adcSample (ia ib ic va vb vc : Half)
  /-- event 0x2, rule R340 -/
  | fastTick
  /-- event 0x3, rule R400 -/
  | lowTick
  /-- event 0x4, rule R252: internal, never supplied by the environment (rule R163) -/
  | timerExpire
  /-- event 0x5, rule R485 -/
  | faultIn
  /-- event 0x6, rule R122 -/
  | hostWrite (off v : Word) (n : AccessWidth)
  /-- event 0x7, rule R121 -/
  | hostRead (off : Word) (n : AccessWidth)
  /-- event 0x8, rule R123 -/
  | timeAdvance
deriving DecidableEq, Repr

/-- One input event as the environment supplies it: its timestamp (rule R111), its format E word (rule R161) and
the payload words carried with it (rule R162). -/
structure InputRecord where
  /-- timestamp in microseconds -/
  t : Word
  /-- the format E word: bits [3:0] hold the event code -/
  code : Word
  /-- the payload of rule R162, one word per value, in the order of the table of rule R161 -/
  payload : List Word
deriving DecidableEq, Repr

/-- Why a command word is illegal: the clauses of rule R158.  All of them raise `CmdError(ILLEGAL)`. -/
inductive IllegalWord where
  /-- clause (a): `OPC` is not in the table of rule R156 -/
  | unlistedOpcode
  /-- clause (b): a bit of [31:15] is 1 -/
  | reservedBits
  /-- clause (c): a field the opcode does not use is nonzero -/
  | unusedField
  /-- clause (d): `S` > 5 for INV_COMMUTATE -/
  | stepRange
  /-- clause (e): `S` > 2 for INV_SET_PHASE -/
  | phaseRange
  /-- clause (e): `ST` > 5 for INV_SET_PHASE -/
  | stateRange
deriving DecidableEq, Repr

/-- Why an input record is no event of the core. -/
inductive EventReject where
  /-- bits [31:4] of the format E word are not 0 (rule R161) -/
  | formatBits
  /-- event code 0x9..0xF (rule R163) -/
  | reservedCode
  /-- event code 0x4, internal only (rule R163) -/
  | internalCode
  /-- the payload is not the one the table of rule R161 gives the code -/
  | payloadShape
  /-- an ADC value above 0xFFFF (rule R162) -/
  | adcRange
deriving DecidableEq, Repr

end Sys2Proof
end

