-- ==== Sys2Proof/Config.lean ====
section
/-! DEFINITION. What an instance of the core fixes: the implementation parameters of rule R8. -/

namespace Sys2Proof

/-- A control phase, A = 0, B = 1, C = 2 (rule R50): the phases of the commutation table and of BEMF sampling. -/
inductive CPhase where
  | a
  | b
  | c
deriving DecidableEq, Repr

/-- A hardware phase, encoded as a control phase but a distinct type (rule R50): the phases of the inverter port
and of the ADC. -/
inductive HPhase where
  | a
  | b
  | c
deriving DecidableEq, Repr

/-- `P_PHASE_MAP` (rule R8): a bijection from control phases to hardware phases, named by the hardware phases that
A, B and C go to.  These six are all the bijections there are. -/
inductive PhaseMap where
  | abc
  | acb
  | bac
  | bca
  | cab
  | cba
deriving DecidableEq, Repr

/-- `NUM_NAN` (rule R8): any quiet-NaN pattern, given by its sign bit and its 22 payload bits. -/
structure QuietNaN where
  /-- bit 31 -/
  negative : Bool
  /-- bits [21:0]; bit 22 is the quiet bit -/
  payload : BitVec 22
deriving DecidableEq, Repr

/-- The parameters of rule R8 that plain data can hold, fixed for an instance: no event writes them. -/
structure Instance where
  /-- `P_PHASE_MAP` -/
  phaseMap : PhaseMap
  /-- `P_ZC_TS_ON_INVALID` -/
  zcTsOnInvalid : Bool
  /-- `NUM_NAN` -/
  numNaN : QuietNaN
deriving DecidableEq, Repr

/-- The defaults of rule R8: the identity map, `true`, and 0x7FC00000.  DESIGN CHOICE (log 1, unsafe): the machine right
after reset has them; the statements quantify over every instance. -/
def Instance.default : Instance :=
  { phaseMap := .abc, zcTsOnInvalid := true, numNaN := { negative := false, payload := 0 } }

/-- `NUM_POW` (rule R8, OPEN): the binary32 power function on patterns, a FREE VALUE (log 2, safe).  `F32.pow32` puts
rule R19's properties on it. -/
opaque Config.numPow : Word → Word → Word

/-- `NUM_EXP` (rule R8, OPEN): the binary32 exponential on patterns, a FREE VALUE (log 2, safe).  `F32.exp32` puts
rule R19's properties on it. -/
opaque Config.numExp : Word → Word

/-- The word index of `P_BASE` (rule R8, OPEN): a FREE VALUE (log 3, safe). -/
opaque Config.pBaseIndex : BitVec 30

/-- `P_BASE` (rule R8): a word-aligned base address, platform-defined. -/
def Config.pBase : Word := Config.pBaseIndex ++ 0#2

/-- The byte offset from `P_BASE` that a bus address has (rule R12).  Host events carry offsets, so no rule reads
`P_BASE` itself. -/
def Config.busOffset (addr : Word) : Word := addr - Config.pBase

/-- `F_FAST`, nominal, in Hz (rules R8, R551): no rule reads it. -/
def Config.fFastHz : Nat := 24000

/-- `F_LOW`, nominal, in Hz (rules R8, R552): no rule reads it. -/
def Config.fLowHz : Nat := 1000

end Sys2Proof
end

