-- ==== Sys2Proof/Machine/State.lean ====
section
/-! DEFINITION. The state of the core (file 10_state.md), as plain data, its reset value (rule R63), and why a step
can stop. -/

namespace Sys2Proof.Machine

/-- `MODE`, the motor mode: 0 Stopped, 1 OpenLoop, 2 ClosedLoop (rule R36). -/
inductive Mode where
  | stopped
  | openLoop
  | closedLoop
deriving DecidableEq, Repr

/-- `STOP_CAUSE`, codes 0 to 5 in this order (rule R37). -/
inductive StopCause where
  | none
  | stopCommand
  | hardwareFault
  | rampEnd
  | stallTimeout
  | reversal
deriving DecidableEq, Repr

/-- The result codes of a command, 0 to 5 in this order (rule R480). -/
inductive CmdErr where
  | ok
  | illegal
  | busy
  | notReady
  | fault
  | badArg
deriving DecidableEq, Repr

/-- The output state of one hardware phase, codes 0 to 5 in this order (rule R56). -/
inductive OutState where
  | hiZ
  | pwmActive
  | pwmHighOnly
  | pwmLowOnly
  | forcedHigh
  | forcedLow
deriving DecidableEq, Repr

/-- `SCHED_TAG`, codes 0 to 5 in this order (rule R57). -/
inductive Tag where
  | none
  | alignDone
  | rampStep
  | handover
  | clComm
  | user
deriving DecidableEq, Repr

/-- `RAMP_OWNER`: 0 the host's diagnostic ramp, 1 the state machine's ramp (rule R58). -/
inductive Owner where
  | host
  | stateMachine
deriving DecidableEq, Repr

/-- Three like things, one per phase. -/
structure Tri (α : Type) where
  a : α
  b : α
  c : α
deriving DecidableEq, Repr

/-- The interface registers (rules R32, R33). -/
structure Iface where
  /-- `CMD_STATUS[7:0]`, `LAST_OPC` -/
  lastOpc : BitVec 8
  /-- `CMD_STATUS[11:8]`, `LAST_ERR` -/
  lastErr : CmdErr
  arg0 : Word
  arg1 : Word
  arg2 : Word
  arg3 : Word
deriving DecidableEq, Repr

/-- The configuration registers (rules R40 to R43).  An f32 register holds the 32 bits the host wrote; an operation
that uses one reads it as a datum through `F32.ofWord` (rules R16, R44). -/
structure Cfg where
  bemfVScale : Word
  bemfAmpMin : Word
  bemfPeriodMinUs : Word
  bemfPeriodMaxUs : Word
  bemfLockN : Half
  bemfUnlockM : Half
  bemfWOld : Word
  bemfWNew : Word
  rampDutyStart : Word
  rampDutyEnd : Word
  rampFreqStartHz : Word
  rampFreqEndHz : Word
  rampTimeMs : Word
  /-- `RAMP_PROFILE`, legal values 0 to 3 (rule R44) -/
  rampProfile : BitVec 2
  rampLogK : Word
  rampMinStepUs : Word
  /-- `ALIGN_STEP`, legal values 0 to 5 (rule R44) -/
  alignStep : StepIx
  alignDuty : Word
  alignTimeUs : Word
  clEnterSpeedHz : Word
  clStreakMin : Half
  clDutyFloor : Word
  leadFactor : Word
  commDelayMinUs : Word
  commDelayMaxUs : Word
  schedMinUs : Word
  clStallTimeoutUs : Word
  polePairs : Half
  speedSlopeRpm : Word
  revThreshRpm : Word
  pidKp : Word
  pidKi : Word
  pidKd : Word
  pidTsS : Word
  pidOutMin : Word
  pidOutMax : Word
  pidIMin : Word
  pidIMax : Word
deriving DecidableEq, Repr

/-- `MODE`, `ALIGNING`, `STOP_CAUSE` and `FAULT_LATCHED` (rules R36, R37, R62). -/
structure Ctl where
  mode : Mode
  aligning : Bool
  stopCause : StopCause
  faultLatched : Bool
deriving DecidableEq, Repr

/-- The BEMF Monitor (rule R51). -/
structure Bemf where
  /-- `BEMF_INIT_DONE` -/
  initDone : Bool
  /-- `PREV_OK`, by control phase -/
  prevOk : Tri Bool
  /-- `PREV_BEMF`, by control phase -/
  prev : Tri F32
  /-- `BASELINE_DONE` -/
  baselineDone : Bool
  /-- `BEMF_LAST_ZC` -/
  lastZc : Word
  /-- `PERIOD_SEEDED` -/
  periodSeeded : Bool
  /-- `BEMF_PERIOD` -/
  period : F32
  /-- `VALID_CNT` -/
  validCnt : Half
  /-- `INVALID_CNT` -/
  invalidCnt : Half
  /-- `BEMF_VALID` -/
  valid : Bool
  /-- `ZC_FLAG` -/
  zcFlag : Bool
  /-- `ZC_PHASE` -/
  zcPhase : CPhase
  /-- `ZC_COUNT` -/
  zcCount : Word
deriving DecidableEq, Repr

/-- The ADC sample buffer (rule R53). -/
structure Adc where
  /-- `ADC_IA`, `ADC_IB`, `ADC_IC`, by hardware phase -/
  i : Tri Half
  /-- `ADC_VA`, `ADC_VB`, `ADC_VC`, by hardware phase -/
  v : Tri Half
  /-- `ADC_NEW` -/
  isNew : Bool
  /-- `ADC_OVERRUN` -/
  overrun : Bool
deriving DecidableEq, Repr

/-- The commutation context and the guard flags (rules R54, R55). -/
structure Comm where
  /-- `COMM_STEP` -/
  step : StepIx
  /-- `COMM_DIR` -/
  dir : Dir
  /-- `COMM_FLOAT` -/
  float : CPhase
  /-- `COMM_DUTY` -/
  duty : F32
  /-- `COMM_COUNT` -/
  count : Word
  /-- `LAST_COMM` -/
  lastComm : Word
  /-- `COMM_ARMED` -/
  armed : Bool
  /-- `TRANSITION_SCHEDULED` -/
  transition : Bool
  /-- `HANDOVER_ARMED` -/
  handoverArmed : Bool
deriving DecidableEq, Repr

/-- The inverter port (rule R56). -/
structure Inv where
  /-- `INV_PH`, by hardware phase -/
  ph : Tri OutState
  /-- `INV_DUTY` -/
  duty : F32
deriving DecidableEq, Repr

/-- The scheduler slot (rule R57). -/
structure Sched where
  /-- `SCHED_ACTIVE` -/
  active : Bool
  /-- `SCHED_DEADLINE` -/
  deadline : Word
  /-- `SCHED_TAG` -/
  tag : Tag
  /-- `SCHED_USER_FIRED` -/
  userFired : Word
deriving DecidableEq, Repr

/-- The copies of the ramp configuration that a ramp takes when it starts (rule R58). -/
structure RampCtx where
  /-- `CTX_DS` -/
  ds : F32
  /-- `CTX_DE` -/
  de : F32
  /-- `CTX_FS` -/
  fs : F32
  /-- `CTX_FE` -/
  fe : F32
  /-- `CTX_T_MS` -/
  tMs : Word
  /-- `CTX_PROF` -/
  prof : BitVec 2
  /-- `CTX_LOGK` -/
  logK : F32
deriving DecidableEq, Repr

/-- The ramp context (rule R58). -/
structure Ramp where
  /-- `RAMP_ACTIVE` -/
  active : Bool
  /-- `RAMP_OWNER` -/
  owner : Owner
  /-- `RAMP_DIR` -/
  dir : Dir
  /-- `RAMP_STEP` -/
  step : StepIx
  /-- `RAMP_ELAPSED` -/
  elapsed : Word
  /-- `RAMP_LAST_DELAY` -/
  lastDelay : Word
  /-- `RAMP_FREQ` -/
  freq : F32
  /-- `RAMP_DUTY` -/
  duty : F32
  /-- `RAMP_DONE_COUNT` -/
  doneCount : Word
  /-- `CTX_DS` to `CTX_LOGK` -/
  ctx : RampCtx
deriving DecidableEq, Repr

/-- The handover capture (rule R59). -/
structure Handover where
  /-- `HO_STEP` -/
  step : StepIx
  /-- `HO_DIR` -/
  dir : Dir
  /-- `HO_DUTY` -/
  duty : F32
  /-- `STREAK` -/
  streak : Half
deriving DecidableEq, Repr

/-- The speed regulator (rule R60). -/
structure Speed where
  /-- `MOTOR_DIR` -/
  motorDir : Dir
  /-- `SPEED_CMD` -/
  cmd : F32
  /-- `SPEED_TARGET` -/
  target : F32
  /-- `SPEED_MEAS` -/
  meas : F32
  /-- `REV_BUF` -/
  revBuf : F32
  /-- `REVERSE_PENDING` -/
  reversePending : Bool
  /-- `DUTY` -/
  duty : F32
deriving DecidableEq, Repr

/-- The PID state (rule R61). -/
structure Pid where
  /-- `PID_INTEG` -/
  integ : F32
  /-- `PID_PREV_ERR` -/
  prevErr : F32
  /-- `PID_LAST_OUT` -/
  lastOut : F32
deriving DecidableEq, Repr

/-- What the host bus last answered (rules R103, R121): the value read and the error response.  Not core state
(DESIGN CHOICE, log 9). -/
structure BusResponse where
  /-- the value a read returned; 0 for a write and for an access error -/
  data : Word
  /-- the error response of rule R103 -/
  error : Bool
deriving DecidableEq, Repr

/-- The ports to the environment (rules R110, R111, R495 to R499).  None of this is core state: `RESET` leaves it
(DESIGN CHOICE, logs 5, 6 and 9; their values at reset are the model's, unsafe). -/
structure Env where
  /-- the input events the environment has supplied and the core has not yet processed, first one first -/
  inputs : List InputRecord
  /-- the time port: the timestamp of the last input event the core took -/
  time : Word
  /-- an input event has been taken, so `time` is the timestamp the next one is ordered after (rule R111) -/
  started : Bool
  /-- the last host access's response -/
  resp : BusResponse
deriving DecidableEq, Repr

/-- The whole machine: the instance parameters, the state elements of 10_state.md, and the ports. -/
structure State where
  /-- the parameters of rule R8 -/
  inst : Instance
  iface : Iface
  cfg : Cfg
  ctl : Ctl
  bemf : Bemf
  adc : Adc
  comm : Comm
  inv : Inv
  sched : Sched
  ramp : Ramp
  ho : Handover
  speed : Speed
  pid : Pid
  env : Env
deriving DecidableEq, Repr

/-- `+0.0`, the reset value of every dynamic f32 element (rule R31). -/
def f32Zero : F32 := ⟨0⟩

/-- The reset values of the configuration registers (rule R31). -/
def Cfg.reset : Cfg :=
  { bemfVScale := 0x3F800000, bemfAmpMin := 0, bemfPeriodMinUs := 100, bemfPeriodMaxUs := 100000,
    bemfLockN := 4, bemfUnlockM := 3, bemfWOld := 0x3F400000, bemfWNew := 0x3E800000,
    rampDutyStart := 0x3E99999A, rampDutyEnd := 0x3F19999A, rampFreqStartHz := 0x41C80000,
    rampFreqEndHz := 0x43FA0000, rampTimeMs := 1000, rampProfile := 0, rampLogK := 0x40400000,
    rampMinStepUs := 100,
    alignStep := 0, alignDuty := 0x3E4CCCCD, alignTimeUs := 100000, clEnterSpeedHz := 0x42480000,
    clStreakMin := 2, clDutyFloor := 0x3E800000, leadFactor := 0x3F000000, commDelayMinUs := 20,
    commDelayMaxUs := 20000, schedMinUs := 10, clStallTimeoutUs := 0,
    polePairs := 7, speedSlopeRpm := 0x3F800000, revThreshRpm := 0x43480000, pidKp := 0x3A800000,
    pidKi := 0x3B800000, pidKd := 0, pidTsS := 0x3A83126F, pidOutMin := 0x3D4CCCCD,
    pidOutMax := 0x3F733333, pidIMin := 0xBF733333, pidIMax := 0x3F733333 }

/-- The reset values of rule R51. -/
def Bemf.reset : Bemf :=
  { initDone := false, prevOk := ⟨false, false, false⟩, prev := ⟨f32Zero, f32Zero, f32Zero⟩,
    baselineDone := false, lastZc := 0, periodSeeded := false, period := f32Zero, validCnt := 0,
    invalidCnt := 0, valid := false, zcFlag := false, zcPhase := .a, zcCount := 0 }

/-- The cleared ramp copies (rules R58, R292). -/
def RampCtx.clear : RampCtx :=
  { ds := f32Zero, de := f32Zero, fs := f32Zero, fe := f32Zero, tMs := 0, prof := 0, logK := f32Zero }

/-- The machine right after reset: every state element of 10_state.md at the value its table gives (rule R63), the
instance at the defaults of rule R8, and the ports with nothing supplied. -/
def State.reset : State :=
  { inst := Instance.default
    iface := { lastOpc := 0, lastErr := .ok, arg0 := 0, arg1 := 0, arg2 := 0, arg3 := 0 }
    cfg := Cfg.reset
    ctl := { mode := .stopped, aligning := false, stopCause := .none, faultLatched := false }
    bemf := Bemf.reset
    adc := { i := ⟨0, 0, 0⟩, v := ⟨0, 0, 0⟩, isNew := false, overrun := false }
    comm := { step := 0, dir := .cw, float := .a, duty := f32Zero, count := 0, lastComm := 0,
              armed := false, transition := false, handoverArmed := false }
    inv := { ph := ⟨.hiZ, .hiZ, .hiZ⟩, duty := f32Zero }
    sched := { active := false, deadline := 0, tag := .none, userFired := 0 }
    ramp := { active := false, owner := .host, dir := .cw, step := 0, elapsed := 0, lastDelay := 0,
              freq := f32Zero, duty := f32Zero, doneCount := 0, ctx := RampCtx.clear }
    ho := { step := 0, dir := .cw, duty := f32Zero, streak := 0 }
    speed := { motorDir := .cw, cmd := f32Zero, target := f32Zero, meas := f32Zero, revBuf := f32Zero,
               reversePending := false, duty := f32Zero }
    pid := { integ := f32Zero, prevErr := f32Zero, lastOut := f32Zero }
    env := { inputs := [], time := 0, started := false, resp := { data := 0, error := false } } }

/-- Why the machine stops. -/
inductive Fault where
  /-- Raised by `TIMER_EXPIRE` when no event is pending: rule R252 runs it only while `SCHED_ACTIVE = 1`.  Safe
  (log 11): `step` never does it. -/
  | expiryWithoutEvent
  /-- Raised by `TIMER_EXPIRE` when the pending event has the tag `T_NONE`, which is never dispatched (rule R253).
  Safe (log 11): rule R64 item 7 makes it unreachable. -/
  | expiryWithoutTag
deriving DecidableEq, Repr

/-- Why a step gives an input no meaning. -/
inductive Refusal where
  /-- Raised by an arm of `exec` for an instruction that has no meaning yet.  Safe: the machine stops by name. -/
  | notModelled (mnemonic : String)
  /-- Raised by `step` for an input record that is no event of the core (rule R163).  Safe: the model refuses such an
  input rather than giving it a meaning. -/
  | notAnEvent (why : EventReject)
  /-- Raised by `step` for a timestamp that decreases, or is 2^31 microseconds or more after the last one (rules R111,
  R540).  Safe (log 6): such an input is outside the observation. -/
  | timeOrder
deriving DecidableEq, Repr

end Sys2Proof.Machine
end

