-- ==== Sys2Proof/Machine/Float32.lean ====
section
/-! DEFINITION. Binary32 arithmetic (rules R14 to R17, R19): round to nearest, ties to even, subnormals kept, one NaN
datum.  A finite datum is its sign, an integer `mant` and an exponent `ex`, of value `mant * 2 ^ (ex - 149)`. -/

namespace Sys2Proof.F32

/-- The NaN datum.  A host reads it as `NUM_NAN` (rule R14, `F32.bits`). -/
def nan : F32 := ⟨0x7FC00000⟩

/-- The sign bit. -/
def sign (x : F32) : Bool := x.pat.getLsbD 31

/-- The biased exponent field, bits [30:23]. -/
def expField (x : F32) : Nat := x.pat.toNat / 2 ^ 23 % 2 ^ 8

/-- The fraction field, bits [22:0]. -/
def fracField (x : F32) : Nat := x.pat.toNat % 2 ^ 23

/-- The pattern without its sign bit: greater for a greater magnitude. -/
def magnitude (x : F32) : Nat := x.pat.toNat % 2 ^ 31

def isNaN (x : F32) : Bool := decide (0x7F800000 < x.magnitude)

def isInf (x : F32) : Bool := decide (x.magnitude = 0x7F800000)

def isFinite (x : F32) : Bool := decide (x.magnitude < 0x7F800000)

/-- `+0` or `-0`. -/
def isZero (x : F32) : Bool := decide (x.magnitude = 0)

/-- The integer significand of a finite datum. -/
def mant (x : F32) : Nat := if x.expField = 0 then x.fracField else x.fracField + 2 ^ 23

/-- The exponent of a finite datum's last place, counted from 2^-149. -/
def ex (x : F32) : Nat := if x.expField = 0 then 0 else x.expField - 1

/-- The signed integer significand of a finite datum. -/
def signedMant (x : F32) : Int := if x.sign then -(x.mant : Int) else x.mant

/-- The pattern with a sign and a magnitude. -/
def pack (neg : Bool) (magnitude : Nat) : F32 := ⟨BitVec.ofNat 32 (if neg then 2 ^ 31 + magnitude else magnitude)⟩

def zero (neg : Bool) : F32 := pack neg 0

def inf (neg : Bool) : F32 := pack neg 0x7F800000

/-- A NaN stands for the one NaN datum (rule R14). -/
def canonical (x : F32) : F32 := if x.isNaN then nan else x

/-- `f32of(w)` (rule R16): the datum whose pattern is `w`.  DEDUCED (log 10, unsafe): a NaN in a source register is
propagated as `NUM_NAN` (rule R14), so every NaN pattern is read as the one NaN datum. -/
def ofWord (w : Word) : F32 := canonical ⟨w⟩

/-- `m * 2^e` (and something below one unit of `m` when `sticky`) rounded to an integer number of units `2^lsb`,
to nearest, ties to even. -/
def roundUnits (m : Nat) (e lsb : Int) (sticky : Bool) : Nat :=
  if lsb ≤ e then m <<< (e - lsb).toNat
  else
    let shift := (lsb - e).toNat
    let q := m >>> shift
    let rem := m % 2 ^ shift
    let half := 2 ^ (shift - 1)
    if half < rem ∨ (rem = half ∧ (sticky = true ∨ q % 2 = 1)) then q + 1 else q

/-- The binary32 datum nearest to `m * 2^e`, ties to even (rule R14); overflow gives infinity.  With `sticky` the exact
value lies strictly between `m` and `m + 1` units; callers then give `m` at least 26 bits. -/
def round (neg : Bool) (m : Nat) (e : Int) (sticky : Bool) : F32 :=
  if m = 0 then zero neg
  else
    let lsb : Int := max (e + m.log2 - 23) (-149)
    pack neg (min ((lsb + 149).toNat * 2 ^ 23 + roundUnits m e lsb sticky) 0x7F800000)

/-- Negation flips the sign bit exactly (rule R289). -/
def neg (x : F32) : F32 := if x.isNaN then nan else pack (!x.sign) x.magnitude

/-- `fabs(x)` clears the sign bit (rule R14). -/
def abs (x : F32) : F32 := if x.isNaN then nan else pack false x.magnitude

/-- `a + b` (rule R14). -/
def add (a b : F32) : F32 :=
  if a.isNaN || b.isNaN then nan
  else if a.isInf then (if b.isInf && (a.sign != b.sign) then nan else inf a.sign)
  else if b.isInf then inf b.sign
  else
    let e := min a.ex b.ex
    let sum := a.signedMant * (2 ^ (a.ex - e) : Nat) + b.signedMant * (2 ^ (b.ex - e) : Nat)
    if sum = 0 then zero (a.sign && b.sign)
    else round (decide (sum < 0)) sum.natAbs ((e : Int) - 149) false

/-- `a - b` (rule R14). -/
def sub (a b : F32) : F32 := add a (neg b)

/-- `a × b` (rule R14). -/
def mul (a b : F32) : F32 :=
  let s := a.sign != b.sign
  if a.isNaN || b.isNaN then nan
  else if a.isInf || b.isInf then (if a.isZero || b.isZero then nan else inf s)
  else round s (a.mant * b.mant) ((a.ex : Int) + b.ex - 298) false

/-- `a / b` (rule R14). -/
def div (a b : F32) : F32 :=
  let s := a.sign != b.sign
  if a.isNaN || b.isNaN then nan
  else if a.isInf then (if b.isInf then nan else inf s)
  else if b.isInf then zero s
  else if b.isZero then (if a.isZero then nan else inf s)
  else
    let n := a.mant <<< 50
    round s (n / b.mant) ((a.ex : Int) - b.ex - 50) (decide (n % b.mant ≠ 0))

/-- The integer square root, found bit by bit from bit `k - 1` down, starting from `r`. -/
def isqrtFrom (n : Nat) : Nat → Nat → Nat
  | 0, r => r
  | k + 1, r => isqrtFrom n k (if (r + 2 ^ k) * (r + 2 ^ k) ≤ n then r + 2 ^ k else r)

/-- The significand and exponent with an even exponent `e` of `m * 2^e`, widened so that the root has 26 bits or
more. -/
def evenSplit (x : F32) : Nat × Int :=
  let e : Int := (x.ex : Int) - 149
  let sh : Nat := if e % 2 = 0 then 52 else 53
  (x.mant <<< sh, e - sh)

/-- `sqrt32(x)`, correctly rounded (rule R14). -/
def sqrt (x : F32) : F32 :=
  if x.isNaN then nan
  else if x.isZero then x
  else if x.sign then nan
  else if x.isInf then x
  else
    let (n, e) := evenSplit x
    let r := isqrtFrom n 40 0
    round false r (e / 2) (decide (r * r ≠ n))

/-- The order of the non-NaN data; both zeros have the key 0. -/
def key (x : F32) : Int := if x.sign then -(x.magnitude : Int) else x.magnitude

/-- `a < b`, false with a NaN operand (rule R15). -/
def lt (a b : F32) : Bool := !a.isNaN && !b.isNaN && decide (a.key < b.key)

/-- `a <= b`, false with a NaN operand (rule R15). -/
def le (a b : F32) : Bool := !a.isNaN && !b.isNaN && decide (a.key ≤ b.key)

/-- `a > b` (rule R15). -/
def gt (a b : F32) : Bool := lt b a

/-- `a >= b` (rule R15). -/
def ge (a b : F32) : Bool := le b a

/-- `a = b` as numbers: `+0 = -0`, and false with a NaN operand (rule R15). -/
def eq (a b : F32) : Bool := !a.isNaN && !b.isNaN && decide (a.key = b.key)

/-- `minf(a, b)` (rule R15). -/
def minf (a b : F32) : F32 := if lt a b then a else b

/-- `maxf(a, b)` (rule R15). -/
def maxf (a b : F32) : F32 := if gt a b then a else b

/-- `clampf(x, lo, hi)` (rule R15).  A NaN `x` passes through. -/
def clampf (x lo hi : F32) : F32 := if lt x lo then lo else if gt x hi then hi else x

/-- `cvt_f32(n)` (rule R16). -/
def ofNat (n : Nat) : F32 := round false n 0 false

/-- The integer part of a non-negative finite datum. -/
def trunc (x : F32) : Nat := if 149 ≤ x.ex then x.mant <<< (x.ex - 149) else x.mant >>> (149 - x.ex)

/-! The literal constants of rule R20, and the `2147483648.0` of rule R17. -/

def one : F32 := ⟨0x3F800000⟩
def three : F32 := ⟨0x40400000⟩
def six : F32 := ⟨0x40C00000⟩
def sixty : F32 := ⟨0x42700000⟩
def million : F32 := ⟨0x49742400⟩
def twoPow31 : F32 := ⟨0x4F000000⟩

/-- `u31sat(x)` (rule R17). -/
def u31sat (x : F32) : Word :=
  if !ge x ⟨0⟩ then 0
  else if ge x twoPow31 then 0x7FFFFFFF
  else BitVec.ofNat 32 x.trunc

/-- A finite datum with the sign and fraction of `x`: the limit that rule R19 puts on a free value. -/
def finitize (x : F32) : F32 := if x.isFinite then x else ⟨x.pat &&& 0xFF7FFFFF⟩

/-- `pow32(x, y)` (rule R19): the free function `NUM_POW` with the properties the rule states of it.  Finiteness is put
on it for `0 ≤ x` and `0 ≤ y ≤ 1`, where the exact result is always in range; rule R287 uses no other finite
operands (DEDUCED, log 2, safe). -/
def pow32 (x y : F32) : F32 :=
  if y.isZero then one
  else if eq y one && x.isFinite && gt x ⟨0⟩ then x
  else
    let r : F32 := ⟨Config.numPow x.pat y.pat⟩
    if x.isFinite && ge x ⟨0⟩ && ge y ⟨0⟩ && le y one then finitize r else canonical r

/-- The greatest datum whose exponential is in binary32 range, about 88.72283 (DEDUCED, log 2, safe). -/
def expMax : F32 := ⟨0x42B17217⟩

/-- `exp32(x)` (rule R19): the free function `NUM_EXP` with the properties the rule states of it. -/
def exp32 (x : F32) : F32 :=
  if x.isZero then one
  else
    let r : F32 := ⟨Config.numExp x.pat⟩
    if x.isFinite && le x expMax then finitize r else canonical r

end Sys2Proof.F32
end

