-- ==== Sys2Proof/Machine/Operands.lean ====
section
/-! DEFINITION. Operands and encodings: the numeric codes of phases, modes, tags and output states (rules R36, R37, R50,
R56, R57, R480), the phase map, the operand registers (rules R33, R157), the integer primitives (rules R17, R18) and
`bits` (rule R16). -/

namespace Sys2Proof.Machine

/-! ### Codes -/

/-- 0 CW, 1 CCW (rule R50). -/
def dirBit (d : Dir) : BitVec 1 :=
  match d with
  | .cw => 0
  | .ccw => 1

/-- `1 - d` (rule R403). -/
def flipDir : Dir → Dir
  | .cw => .ccw
  | .ccw => .cw

/-- A = 0, B = 1, C = 2 (rule R50). -/
def cphaseCode : CPhase → BitVec 2
  | .a => 0
  | .b => 1
  | .c => 2

/-- Rule R36. -/
def modeCode : Mode → BitVec 2
  | .stopped => 0
  | .openLoop => 1
  | .closedLoop => 2

/-- Rule R37. -/
def stopCauseCode : StopCause → BitVec 3
  | .none => 0
  | .stopCommand => 1
  | .hardwareFault => 2
  | .rampEnd => 3
  | .stallTimeout => 4
  | .reversal => 5

/-- Rule R480. -/
def cmdErrCode : CmdErr → BitVec 4
  | .ok => 0
  | .illegal => 1
  | .busy => 2
  | .notReady => 3
  | .fault => 4
  | .badArg => 5

/-- Rule R56. -/
def outStateCode : OutState → BitVec 3
  | .hiZ => 0
  | .pwmActive => 1
  | .pwmHighOnly => 2
  | .pwmLowOnly => 3
  | .forcedHigh => 4
  | .forcedLow => 5

/-- Rule R57. -/
def tagCode : Tag → BitVec 3
  | .none => 0
  | .alignDone => 1
  | .rampStep => 2
  | .handover => 3
  | .clComm => 4
  | .user => 5

/-- Rule R58. -/
def ownerBit : Owner → BitVec 1
  | .host => 0
  | .stateMachine => 1

/-- A step as its 3-bit field (rule R50). -/
def stepCode (k : StepIx) : BitVec 3 := BitVec.ofNat 3 k.val

/-- The step a 3-bit field names, if it is at most 5 (rule R153). -/
def stepOfField (v : BitVec 3) : Option StepIx := if h : v.toNat < 6 then some ⟨v.toNat, h⟩ else none

/-- The hardware phase a 3-bit field names, if it is at most 2 (rule R153). -/
def hphaseOfField (v : BitVec 3) : Option HPhase :=
  match v.toNat with
  | 0 => some .a
  | 1 => some .b
  | 2 => some .c
  | _ => none

/-- The output state a 3-bit field names, if it is at most 5 (rules R56, R154). -/
def outStateOfField (v : BitVec 3) : Option OutState :=
  match v.toNat with
  | 0 => some .hiZ
  | 1 => some .pwmActive
  | 2 => some .pwmHighOnly
  | 3 => some .pwmLowOnly
  | 4 => some .forcedHigh
  | 5 => some .forcedLow
  | _ => none

/-! ### Phases -/

/-- `P_PHASE_MAP` as a function (rule R8). -/
def mapPhase : PhaseMap → CPhase → HPhase
  | .abc, .a => .a | .abc, .b => .b | .abc, .c => .c
  | .acb, .a => .a | .acb, .b => .c | .acb, .c => .b
  | .bac, .a => .b | .bac, .b => .a | .bac, .c => .c
  | .bca, .a => .b | .bca, .b => .c | .bca, .c => .a
  | .cab, .a => .c | .cab, .b => .a | .cab, .c => .b
  | .cba, .a => .c | .cba, .b => .b | .cba, .c => .a

/-- The element of a control phase. -/
def getC {α : Type} (x : Tri α) : CPhase → α
  | .a => x.a
  | .b => x.b
  | .c => x.c

/-- The element of a hardware phase. -/
def getH {α : Type} (x : Tri α) : HPhase → α
  | .a => x.a
  | .b => x.b
  | .c => x.c

/-- Writing the element of a control phase. -/
def setC {α : Type} (x : Tri α) (p : CPhase) (v : α) : Tri α :=
  match p with
  | .a => { x with a := v }
  | .b => { x with b := v }
  | .c => { x with c := v }

/-- Writing the element of a hardware phase. -/
def setH {α : Type} (x : Tri α) (p : HPhase) (v : α) : Tri α :=
  match p with
  | .a => { x with a := v }
  | .b => { x with b := v }
  | .c => { x with c := v }

/-! ### Integer primitives -/

/-- `inc16(c)`, saturating (rule R18). -/
def inc16 (c : Half) : Half := if c = 0xFFFF then 0xFFFF else c + 1

/-- `inc32(c)`, wrapping (rule R18). -/
def inc32 (c : Word) : Word := c + 1

/-- `satadd32(a, b)` (rule R283). -/
def satadd32 (a b : Word) : Word := if 0xFFFFFFFF < a.toNat + b.toNat then 0xFFFFFFFF else a + b

/-- `clampu(n, lo, hi)` (rule R17). -/
def clampu (n lo hi : Word) : Word := if n < lo then lo else if hi < n then hi else n

/-- `s32(t -u d) >= 0` (rules R18, R112): `t` is at or after `d`. -/
def atOrAfter (t d : Word) : Bool := decide ((t - d).toNat < 2 ^ 31)

/-! ### f32 operands and results -/

/-- `NUM_NAN` (rule R8). -/
def numNaN (n : QuietNaN) : Word := BitVec.ofBool n.negative ++ 0xFF#8 ++ 1#1 ++ n.payload

/-- `bits(x)` (rule R16): the pattern a host reads for a datum.  The NaN datum is read as `NUM_NAN` (rule R14). -/
def bits (p : Instance) (x : F32) : Word := if x.isNaN then numNaN p.numNaN else x.pat

/-- `ARG0` as an f32 operand (rule R157). -/
def arg0F32 (s : State) : F32 := F32.ofWord s.iface.arg0

/-- Overwriting the four operand registers, as a result-returning command does (rule R33). -/
def setArgs (s : State) (a0 a1 a2 a3 : Word) : State :=
  { s with iface := { s.iface with arg0 := a0, arg1 := a1, arg2 := a2, arg3 := a3 } }

end Sys2Proof.Machine
end

