-- ==== Sys2Proof/Machine/Flags.lean ====
section
/-! DEFINITION. The field registers (rules R32, R35, R52, R54, R56 to R59, R453), each assembled from the state elements it
mirrors, and the checks that set a command's result code (rules R160, R480, R481). -/

namespace Sys2Proof.Machine

/-- A flag as its one bit. -/
abbrev bit (b : Bool) : BitVec 1 := BitVec.ofBool b

/-- `CMD_STATUS` (rule R32). -/
def cmdStatusWord (s : State) : Word := 0#20 ++ cmdErrCode s.iface.lastErr ++ s.iface.lastOpc

/-- `STATUS` (rule R35). -/
def statusWord (s : State) : Word :=
  0#1 ++ stopCauseCode s.ctl.stopCause ++ 0#2 ++ bit s.adc.overrun ++ bit s.adc.isNew ++ 0#3 ++
  bit s.ctl.faultLatched ++ 0#2 ++ dirBit s.speed.motorDir ++ bit s.speed.reversePending ++ 0#1 ++
  bit s.comm.handoverArmed ++ bit s.comm.transition ++ bit s.comm.armed ++ 0#1 ++
  bit s.bemf.initDone ++ bit s.bemf.valid ++ bit s.bemf.zcFlag ++ 0#2 ++
  bit s.sched.active ++ ownerBit s.ramp.owner ++ bit s.ramp.active ++ bit s.ctl.aligning ++ modeCode s.ctl.mode

/-- `BEMF_STAT` (rule R52). -/
def bemfStatWord (b : Bemf) : Word :=
  0#21 ++ bit b.prevOk.c ++ bit b.prevOk.b ++ bit b.prevOk.a ++ 0#1 ++ bit b.periodSeeded ++
  bit b.baselineDone ++ bit b.initDone ++ cphaseCode b.zcPhase ++ bit b.valid ++ bit b.zcFlag

/-- `BEMF_COUNTS` (rule R52). -/
def bemfCountsWord (b : Bemf) : Word := b.invalidCnt ++ b.validCnt

/-- `COMM_STATE` (rule R54). -/
def commStateWord (c : Comm) : Word :=
  0#22 ++ cphaseCode c.float ++ 0#3 ++ dirBit c.dir ++ 0#1 ++ stepCode c.step

/-- `INV_STATE` (rule R56). -/
def invStateWord (i : Inv) : Word :=
  0#21 ++ outStateCode i.ph.c ++ 0#1 ++ outStateCode i.ph.b ++ 0#1 ++ outStateCode i.ph.a

/-- `SCHED_STATE` (rule R57). -/
def schedStateWord (c : Sched) : Word := 0#25 ++ tagCode c.tag ++ 0#3 ++ bit c.active

/-- `RAMP_STATE` (rule R58). -/
def rampStateWord (r : Ramp) : Word :=
  0#25 ++ stepCode r.step ++ 0#1 ++ dirBit r.dir ++ ownerBit r.owner ++ bit r.active

/-- `HO_STATE` (rule R59). -/
def hoStateWord (h : Handover) : Word := h.streak ++ 0#11 ++ dirBit h.dir ++ 0#1 ++ stepCode h.step

/-- `ARG0` of `BEMF_GET_STATUS` (rule R222). -/
def bemfSnapshotWord (b : Bemf) : Word := 0#28 ++ cphaseCode b.zcPhase ++ bit b.valid ++ bit b.zcFlag

/-- `ARG0` of `TELEMETRY` (rule R453). -/
def telemetryWord (s : State) : Word :=
  0#23 ++ dirBit s.comm.dir ++ 0#1 ++ stepCode s.comm.step ++ 0#2 ++ modeCode s.ctl.mode

/-! ### Result codes -/

/-- The first error of a list in the precedence of rule R481, or `OK`. -/
def firstError : List CmdErr → CmdErr
  | [] => .ok
  | .ok :: rest => firstError rest
  | .illegal :: _ => .illegal
  | .busy :: _ => .busy
  | .notReady :: _ => .notReady
  | .fault :: _ => .fault
  | .badArg :: _ => .badArg

/-- `BUSY` for a diagnostic command unless `MODE = Stopped` (rule R160). -/
def busyUnlessStopped (s : State) : CmdErr :=
  match s.ctl.mode with
  | .stopped => .ok
  | .openLoop => .busy
  | .closedLoop => .busy

/-- `FAULT` for an energising command while a fault is latched (rule R480). -/
def faultIfLatched (s : State) : CmdErr := if s.ctl.faultLatched then .fault else .ok

/-- `NOT_READY` before the BEMF Monitor is initialised (rule R480). -/
def notReadyUnlessInit (s : State) : CmdErr := if s.bemf.initDone then .ok else .notReady

/-- `BAD_ARG` for an operand outside its range (rule R480). -/
def badArgIf (bad : Bool) : CmdErr := if bad then .badArg else .ok

end Sys2Proof.Machine
end

