-- ==== Sys2Proof/Machine/Ops.lean ====
section
/-! DEFINITION. The procedures several rules share: ending a command (rules R151, R480), the scheduler slot (rules
R250, R251), the inverter port (rules R331 to R335), clearing the BEMF, ramp and PID contexts (rules R219, R292, R407), and
the safety stop with the start of a run beside it: the core's analogue of taking an exception and of the way back from
one (rules R345, R356, R486, R487). -/

namespace Sys2Proof.Machine

/-! ### Commands -/

/-- The end of a command that executed (rule R151 (3)). -/
def cmdDone (opc : BitVec 8) (s : State) : State :=
  { s with iface := { s.iface with lastOpc := opc, lastErr := .ok } }

/-- `raise CmdError(code)` (rule R480): `CMD_STATUS` and nothing else. -/
def cmdError (opc : BitVec 8) (code : CmdErr) (s : State) : State :=
  { s with iface := { s.iface with lastOpc := opc, lastErr := code } }

/-- A command: its checks in the precedence of rule R481, then its effect and the end of rule R151. -/
def command (opc : BitVec 8) (checks : List CmdErr) (effect : State → State) (s : State) :
    Host.Outcome State Fault Refusal :=
  match firstError checks with
  | .ok => .next (cmdDone opc (effect s))
  | code => .next (cmdError opc code s)

/-! ### The scheduler slot -/

/-- `sched_start(t, d, tag)` (rule R250). -/
def schedStart (t d : Word) (tag : Tag) (s : State) : State :=
  { s with sched := { s.sched with active := true, deadline := t + d, tag := tag } }

/-- `sched_cancel()` (rule R251). -/
def schedCancel (s : State) : State :=
  { s with sched := { s.sched with active := false, tag := .none } }

/-- The condition of the drain loop of rule R112 at time `t`. -/
def expiryDue (t : Word) (s : State) : Bool := s.sched.active && atOrAfter t s.sched.deadline

/-! ### The six-step table and the inverter port -/

/-- The pattern `(high, low, float)` of a step and a direction (rule R331). -/
def pattern (k : StepIx) (d : Dir) : CPhase × CPhase × CPhase :=
  match k.val, d with
  | 0, .cw => (.c, .b, .a)
  | 1, .cw => (.c, .a, .b)
  | 2, .cw => (.b, .a, .c)
  | 3, .cw => (.b, .c, .a)
  | 4, .cw => (.a, .c, .b)
  | _, .cw => (.a, .b, .c)
  | 0, .ccw => (.c, .b, .a)
  | 1, .ccw => (.a, .b, .c)
  | 2, .ccw => (.a, .c, .b)
  | 3, .ccw => (.b, .c, .a)
  | 4, .ccw => (.b, .a, .c)
  | _, .ccw => (.c, .a, .b)

/-- `high_of(s, d)` (rule R332). -/
def highOf (k : StepIx) (d : Dir) : CPhase := (pattern k d).1

/-- `low_of(s, d)` (rule R332). -/
def lowOf (k : StepIx) (d : Dir) : CPhase := (pattern k d).2.1

/-- `float_of(s, d)` (rule R332). -/
def floatOf (k : StepIx) (d : Dir) : CPhase := (pattern k d).2.2

/-- The output states of a pattern (rule R333): high is PWM-active, low is forced-low, float is Hi-Z. -/
def drivePattern (m : PhaseMap) (k : StepIx) (d : Dir) (ph : Tri OutState) : Tri OutState :=
  setH (setH (setH ph (mapPhase m (highOf k d)) .pwmActive) (mapPhase m (lowOf k d)) .forcedLow)
    (mapPhase m (floatOf k d)) .hiZ

/-- `apply_commutation(s, duty, d, t)` (rule R333). -/
def applyCommutation (k : StepIx) (duty : F32) (d : Dir) (t : Word) (s : State) : State :=
  { s with
    inv := { ph := drivePattern s.inst.phaseMap k d s.inv.ph, duty := duty }
    comm := { s.comm with step := k, dir := d, float := floatOf k d, duty := duty,
                          count := inc32 s.comm.count, lastComm := t } }

/-- `inverter_disable()` (rule R334). -/
def inverterDisable (s : State) : State := { s with inv := { s.inv with ph := ⟨.hiZ, .hiZ, .hiZ⟩ } }

/-- `set_output_state(h, st)` (rule R335). -/
def setOutputState (h : HPhase) (st : OutState) (s : State) : State :=
  { s with inv := { s.inv with ph := setH s.inv.ph h st } }

/-! ### Clearing contexts -/

/-- `bemf_reset()` (rule R219). -/
def bemfReset (s : State) : State :=
  { s with bemf := { Bemf.reset with initDone := s.bemf.initDone, zcCount := s.bemf.zcCount } }

/-- `ramp_clear()` (rule R292). -/
def rampClear (s : State) : State :=
  { s with ramp := { active := false, owner := .host, dir := .cw, step := 0, elapsed := 0, lastDelay := 0,
                     freq := f32Zero, duty := f32Zero, doneCount := s.ramp.doneCount, ctx := RampCtx.clear } }

/-- `pid_reset()` (rule R407). -/
def pidReset (s : State) : State :=
  { s with pid := { integ := f32Zero, prevErr := f32Zero, lastOut := f32Zero } }

/-! ### Entering and leaving Stopped -/

/-- What `safety_stop` does after it has emptied the slot, disabled the inverter and cleared the ramp (rule R356). -/
def clearRun (cause : StopCause) (s : State) : State :=
  { s with
    ctl := { s.ctl with mode := .stopped, aligning := false, stopCause := cause }
    comm := { s.comm with armed := false, transition := false, handoverArmed := false }
    ho := { s.ho with streak := 0 }
    speed := { s.speed with cmd := f32Zero, target := f32Zero, meas := f32Zero, duty := f32Zero,
                            reversePending := false, revBuf := f32Zero } }

/-- `safety_stop(cause)` (rule R356): the core's analogue of taking an exception.  It saves the cause in `STOP_CAUSE`,
enters Stopped, empties the slot and sets every phase to Hi-Z (rule R486). -/
def safetyStop (cause : StopCause) (s : State) : State :=
  clearRun cause (rampClear (inverterDisable (schedCancel s)))

/-- The flags, mode and speed state `start_run` sets between clearing the contexts and driving the alignment vector
(rule R345). -/
def enterAlignment (s : State) : State :=
  { s with
    speed := { s.speed with meas := f32Zero, target := f32Zero }
    ho := { s.ho with streak := 0 }
    comm := { s.comm with armed := false, transition := false, handoverArmed := false }
    ctl := { s.ctl with mode := .openLoop, aligning := true } }

/-- `start_run(t)` (rule R345): Stopped to OpenLoop.  There is no return from a stop: a new run starts from alignment
(rule R487). -/
def startRun (t : Word) (s : State) : State :=
  let s := enterAlignment (pidReset (rampClear (schedCancel s)))
  let s := applyCommutation s.cfg.alignStep (F32.ofWord s.cfg.alignDuty) s.speed.motorDir t s
  schedStart t s.cfg.alignTimeUs .alignDone s

end Sys2Proof.Machine
end

