-- ==== Sys2Proof/Machine/Registers.lean ====
section
/-! DEFINITION. The register window (rules R31 to R44, R100 to R107): the map, what a read of each register returns,
and what a write of each does. -/

namespace Sys2Proof.Machine

/-- The registers of the window, in the order of the map of rule R31. -/
inductive Reg where
  | id | cmd | cmdStatus | arg0 | arg1 | arg2 | arg3 | status | timeUs | bemfVscale | bemfAmpMin
  | bemfPeriodMinUs | bemfPeriodMaxUs | bemfLockN | bemfUnlockM | bemfWOld | bemfWNew | rampDutyStart
  | rampDutyEnd | rampFreqStartHz | rampFreqEndHz | rampTimeMs | rampProfile | rampLogK | rampMinStepUs
  | alignStep | alignDuty | alignTimeUs | clEnterSpeedHz | clStreakMin | clDutyFloor | leadFactor
  | commDelayMinUs | commDelayMaxUs | schedMinUs | clStallTimeoutUs | polePairs | speedSlopeRpm
  | revThreshRpm | pidKp | pidKi | pidKd | pidTsS | pidOutMin | pidOutMax | pidIMin | pidIMax | bemfLastZcUs
  | bemfPeriodUs | bemfStat | bemfCounts | bemfPrevA | bemfPrevB | bemfPrevC | zcCount | commState | commDuty
  | commCount | lastCommUs | invState | invDuty | schedState | schedDeadline | schedUserFired | rampState
  | rampElapsedUs | rampLastDelayUs | rampFreqHz | rampDuty | rampDoneCount | rampCtxDutyStart
  | rampCtxDutyEnd | rampCtxFreqStart | rampCtxFreqEnd | rampCtxTimeMs | rampCtxProfile | rampCtxLogK
  | hoState | hoDuty | speedCmdRpm | speedTargetRpm | speedMeasRpm | revBufRpm | duty | pidInteg | pidPrevErr
  | pidLastOut | adcIa | adcIb | adcIc | adcVa | adcVb | adcVc
deriving DecidableEq, Repr

/-- The map of rule R31, offsets 0x000 to 0x03F. -/
def mapInterface : List (Nat × Reg) :=
  [(0x000, .id), (0x004, .cmd), (0x008, .cmdStatus), (0x010, .arg0), (0x014, .arg1), (0x018, .arg2),
   (0x01C, .arg3), (0x020, .status), (0x024, .timeUs)]

/-- The map of rule R31, offsets 0x040 to 0x07F. -/
def mapBemfCfg : List (Nat × Reg) :=
  [(0x040, .bemfVscale), (0x044, .bemfAmpMin), (0x048, .bemfPeriodMinUs), (0x04C, .bemfPeriodMaxUs),
   (0x050, .bemfLockN), (0x054, .bemfUnlockM), (0x058, .bemfWOld), (0x05C, .bemfWNew)]

/-- The map of rule R31, offsets 0x080 to 0x0BF. -/
def mapRampCfg : List (Nat × Reg) :=
  [(0x080, .rampDutyStart), (0x084, .rampDutyEnd), (0x088, .rampFreqStartHz), (0x08C, .rampFreqEndHz),
   (0x090, .rampTimeMs), (0x094, .rampProfile), (0x098, .rampLogK), (0x09C, .rampMinStepUs)]

/-- The map of rule R31, offsets 0x0C0 to 0x0FF. -/
def mapLoopCfg : List (Nat × Reg) :=
  [(0x0C0, .alignStep), (0x0C4, .alignDuty), (0x0C8, .alignTimeUs), (0x0CC, .clEnterSpeedHz),
   (0x0D0, .clStreakMin), (0x0D4, .clDutyFloor), (0x0D8, .leadFactor), (0x0DC, .commDelayMinUs),
   (0x0E0, .commDelayMaxUs), (0x0E4, .schedMinUs), (0x0E8, .clStallTimeoutUs)]

/-- The map of rule R31, offsets 0x100 to 0x1FF. -/
def mapSpeedCfg : List (Nat × Reg) :=
  [(0x100, .polePairs), (0x104, .speedSlopeRpm), (0x108, .revThreshRpm), (0x10C, .pidKp),
   (0x110, .pidKi), (0x114, .pidKd), (0x118, .pidTsS), (0x11C, .pidOutMin), (0x120, .pidOutMax),
   (0x124, .pidIMin), (0x128, .pidIMax)]

/-- The map of rule R31, offsets 0x200 to 0x21F. -/
def mapBemf : List (Nat × Reg) :=
  [(0x200, .bemfLastZcUs), (0x204, .bemfPeriodUs), (0x208, .bemfStat), (0x20C, .bemfCounts),
   (0x210, .bemfPrevA), (0x214, .bemfPrevB), (0x218, .bemfPrevC), (0x21C, .zcCount)]

/-- The map of rule R31, offsets 0x220 to 0x24F. -/
def mapComm : List (Nat × Reg) :=
  [(0x220, .commState), (0x224, .commDuty), (0x228, .commCount), (0x22C, .lastCommUs),
   (0x230, .invState), (0x234, .invDuty), (0x240, .schedState), (0x244, .schedDeadline),
   (0x248, .schedUserFired)]

/-- The map of rule R31, offsets 0x250 to 0x28F. -/
def mapRamp : List (Nat × Reg) :=
  [(0x250, .rampState), (0x254, .rampElapsedUs), (0x258, .rampLastDelayUs), (0x25C, .rampFreqHz),
   (0x260, .rampDuty), (0x264, .rampDoneCount), (0x268, .rampCtxDutyStart), (0x26C, .rampCtxDutyEnd),
   (0x270, .rampCtxFreqStart), (0x274, .rampCtxFreqEnd), (0x278, .rampCtxTimeMs),
   (0x27C, .rampCtxProfile), (0x280, .rampCtxLogK)]

/-- The map of rule R31, offsets 0x290 to 0x2DF. -/
def mapSpeed : List (Nat × Reg) :=
  [(0x290, .hoState), (0x294, .hoDuty), (0x2A0, .speedCmdRpm), (0x2A4, .speedTargetRpm),
   (0x2A8, .speedMeasRpm), (0x2AC, .revBufRpm), (0x2B0, .duty), (0x2C0, .pidInteg),
   (0x2C4, .pidPrevErr), (0x2C8, .pidLastOut)]

/-- The map of rule R31, offsets 0x2E0 to 0x2FF. -/
def mapAdc : List (Nat × Reg) :=
  [(0x2E0, .adcIa), (0x2E4, .adcIb), (0x2E8, .adcIc), (0x2EC, .adcVa), (0x2F0, .adcVb), (0x2F4, .adcVc)]

/-- The complete map of rule R31: each register with its byte offset from `P_BASE`. -/
def regMap : List (Nat × Reg) :=
  mapInterface ++ mapBemfCfg ++ mapRampCfg ++ mapLoopCfg ++ mapSpeedCfg ++
  mapBemf ++ mapComm ++ mapRamp ++ mapSpeed ++ mapAdc

/-- The register at a byte offset, if the map lists it (rules R31, R105). -/
def regAt (off : Nat) : Option Reg := (regMap.find? (fun e => e.1 == off)).map (·.2)

/-- What a read of a register returns (rule R104): the current value of the elements it stands for.  `CMD` reads 0
(rule R106); `TIME_US` reads the time port (rule R38). -/
def readReg (r : Reg) (s : State) : Word :=
  match r with
  | .id => 0x4E440100
  | .cmd => 0
  | .cmdStatus => cmdStatusWord s
  | .arg0 => s.iface.arg0
  | .arg1 => s.iface.arg1
  | .arg2 => s.iface.arg2
  | .arg3 => s.iface.arg3
  | .status => statusWord s
  | .timeUs => s.env.time
  | .bemfVscale => s.cfg.bemfVScale
  | .bemfAmpMin => s.cfg.bemfAmpMin
  | .bemfPeriodMinUs => s.cfg.bemfPeriodMinUs
  | .bemfPeriodMaxUs => s.cfg.bemfPeriodMaxUs
  | .bemfLockN => s.cfg.bemfLockN.setWidth 32
  | .bemfUnlockM => s.cfg.bemfUnlockM.setWidth 32
  | .bemfWOld => s.cfg.bemfWOld
  | .bemfWNew => s.cfg.bemfWNew
  | .rampDutyStart => s.cfg.rampDutyStart
  | .rampDutyEnd => s.cfg.rampDutyEnd
  | .rampFreqStartHz => s.cfg.rampFreqStartHz
  | .rampFreqEndHz => s.cfg.rampFreqEndHz
  | .rampTimeMs => s.cfg.rampTimeMs
  | .rampProfile => s.cfg.rampProfile.setWidth 32
  | .rampLogK => s.cfg.rampLogK
  | .rampMinStepUs => s.cfg.rampMinStepUs
  | .alignStep => (stepCode s.cfg.alignStep).setWidth 32
  | .alignDuty => s.cfg.alignDuty
  | .alignTimeUs => s.cfg.alignTimeUs
  | .clEnterSpeedHz => s.cfg.clEnterSpeedHz
  | .clStreakMin => s.cfg.clStreakMin.setWidth 32
  | .clDutyFloor => s.cfg.clDutyFloor
  | .leadFactor => s.cfg.leadFactor
  | .commDelayMinUs => s.cfg.commDelayMinUs
  | .commDelayMaxUs => s.cfg.commDelayMaxUs
  | .schedMinUs => s.cfg.schedMinUs
  | .clStallTimeoutUs => s.cfg.clStallTimeoutUs
  | .polePairs => s.cfg.polePairs.setWidth 32
  | .speedSlopeRpm => s.cfg.speedSlopeRpm
  | .revThreshRpm => s.cfg.revThreshRpm
  | .pidKp => s.cfg.pidKp
  | .pidKi => s.cfg.pidKi
  | .pidKd => s.cfg.pidKd
  | .pidTsS => s.cfg.pidTsS
  | .pidOutMin => s.cfg.pidOutMin
  | .pidOutMax => s.cfg.pidOutMax
  | .pidIMin => s.cfg.pidIMin
  | .pidIMax => s.cfg.pidIMax
  | .bemfLastZcUs => s.bemf.lastZc
  | .bemfPeriodUs => bits s.inst s.bemf.period
  | .bemfStat => bemfStatWord s.bemf
  | .bemfCounts => bemfCountsWord s.bemf
  | .bemfPrevA => bits s.inst s.bemf.prev.a
  | .bemfPrevB => bits s.inst s.bemf.prev.b
  | .bemfPrevC => bits s.inst s.bemf.prev.c
  | .zcCount => s.bemf.zcCount
  | .commState => commStateWord s.comm
  | .commDuty => bits s.inst s.comm.duty
  | .commCount => s.comm.count
  | .lastCommUs => s.comm.lastComm
  | .invState => invStateWord s.inv
  | .invDuty => bits s.inst s.inv.duty
  | .schedState => schedStateWord s.sched
  | .schedDeadline => s.sched.deadline
  | .schedUserFired => s.sched.userFired
  | .rampState => rampStateWord s.ramp
  | .rampElapsedUs => s.ramp.elapsed
  | .rampLastDelayUs => s.ramp.lastDelay
  | .rampFreqHz => bits s.inst s.ramp.freq
  | .rampDuty => bits s.inst s.ramp.duty
  | .rampDoneCount => s.ramp.doneCount
  | .rampCtxDutyStart => bits s.inst s.ramp.ctx.ds
  | .rampCtxDutyEnd => bits s.inst s.ramp.ctx.de
  | .rampCtxFreqStart => bits s.inst s.ramp.ctx.fs
  | .rampCtxFreqEnd => bits s.inst s.ramp.ctx.fe
  | .rampCtxTimeMs => s.ramp.ctx.tMs
  | .rampCtxProfile => s.ramp.ctx.prof.setWidth 32
  | .rampCtxLogK => bits s.inst s.ramp.ctx.logK
  | .hoState => hoStateWord s.ho
  | .hoDuty => bits s.inst s.ho.duty
  | .speedCmdRpm => bits s.inst s.speed.cmd
  | .speedTargetRpm => bits s.inst s.speed.target
  | .speedMeasRpm => bits s.inst s.speed.meas
  | .revBufRpm => bits s.inst s.speed.revBuf
  | .duty => bits s.inst s.speed.duty
  | .pidInteg => bits s.inst s.pid.integ
  | .pidPrevErr => bits s.inst s.pid.prevErr
  | .pidLastOut => bits s.inst s.pid.lastOut
  | .adcIa => s.adc.i.a.setWidth 32
  | .adcIb => s.adc.i.b.setWidth 32
  | .adcIc => s.adc.i.c.setWidth 32
  | .adcVa => s.adc.v.a.setWidth 32
  | .adcVb => s.adc.v.b.setWidth 32
  | .adcVc => s.adc.v.c.setWidth 32

/-- `MemRead(off, 4)` inside the window (rules R104, R105): a reserved offset reads 0. -/
def memRead (off : Nat) (s : State) : Word :=
  match regAt off with
  | some r => readReg r s
  | none => 0

/-- Byte `a` of the window, little-endian: byte 0 of a register holds its bits [7:0] (rule R101).  The
model's read of one byte (log 13, safe): no bus access of one byte exists (rule R102). -/
def windowByte (s : State) (a : Nat) : BitVec 8 := (memRead (a / 4 * 4) s).extractLsb' (8 * (a % 4)) 8

/-! ### Legal values of configuration registers (rule R44) -/

/-- f32 finite and > 0 -/
def posFinite (v : Word) : Bool := (F32.ofWord v).isFinite && F32.gt (F32.ofWord v) ⟨0⟩

/-- f32 finite and >= 0; `-0.0` is legal, being `= 0` -/
def nonnegFinite (v : Word) : Bool := (F32.ofWord v).isFinite && F32.ge (F32.ofWord v) ⟨0⟩

/-- 0 .. 0x7FFFFFFF -/
def isDelay (v : Word) : Bool := decide (v ≤ 0x7FFFFFFF)

/-- A write-any-read-legal register: an illegal value is ignored (rule R44). -/
def warl (legal : Bool) (new old : Cfg) : Cfg := if legal then new else old

/-- The low half of a written word: bits [31:16] are ignored (rules R40, R44). -/
def lowHalf (v : Word) : Half := v.setWidth 16

/-- Writing a configuration register, subject to rules R40, R43, R44 and R107; no other register is configuration. -/
def writeCfg (r : Reg) (v : Word) (c : Cfg) : Cfg :=
  match r with
  | .bemfVscale => { c with bemfVScale := v }
  | .bemfAmpMin => { c with bemfAmpMin := v }
  | .bemfPeriodMinUs => { c with bemfPeriodMinUs := v }
  | .bemfPeriodMaxUs => { c with bemfPeriodMaxUs := v }
  | .bemfLockN => { c with bemfLockN := lowHalf v }
  | .bemfUnlockM => { c with bemfUnlockM := lowHalf v }
  | .bemfWOld => { c with bemfWOld := v }
  | .bemfWNew => { c with bemfWNew := v }
  | .rampDutyStart => { c with rampDutyStart := v }
  | .rampDutyEnd => { c with rampDutyEnd := v }
  | .rampFreqStartHz => warl (posFinite v) { c with rampFreqStartHz := v } c
  | .rampFreqEndHz => warl (posFinite v) { c with rampFreqEndHz := v } c
  | .rampTimeMs => { c with rampTimeMs := v }
  | .rampProfile => warl (decide (v < 4)) { c with rampProfile := v.setWidth 2 } c
  | .rampLogK => { c with rampLogK := v }
  | .rampMinStepUs => warl (decide (1 ≤ v) && isDelay v) { c with rampMinStepUs := v } c
  | .alignStep => if h : v.toNat < 6 then { c with alignStep := ⟨v.toNat, h⟩ } else c
  | .alignDuty => { c with alignDuty := v }
  | .alignTimeUs => warl (isDelay v) { c with alignTimeUs := v } c
  | .clEnterSpeedHz => { c with clEnterSpeedHz := v }
  | .clStreakMin => { c with clStreakMin := lowHalf v }
  | .clDutyFloor => { c with clDutyFloor := v }
  | .leadFactor => { c with leadFactor := v }
  | .commDelayMinUs => warl (isDelay v) { c with commDelayMinUs := v } c
  | .commDelayMaxUs => warl (isDelay v) { c with commDelayMaxUs := v } c
  | .schedMinUs => { c with schedMinUs := v }
  | .clStallTimeoutUs => warl (isDelay v) { c with clStallTimeoutUs := v } c
  | .polePairs => warl (decide (lowHalf v ≠ 0)) { c with polePairs := lowHalf v } c
  | .speedSlopeRpm => warl (nonnegFinite v) { c with speedSlopeRpm := v } c
  | .revThreshRpm => { c with revThreshRpm := v }
  | .pidKp => { c with pidKp := v }
  | .pidKi => { c with pidKi := v }
  | .pidKd => { c with pidKd := v }
  | .pidTsS => warl (posFinite v) { c with pidTsS := v } c
  | .pidOutMin => warl (nonnegFinite v) { c with pidOutMin := v } c
  | .pidOutMax => { c with pidOutMax := v }
  | .pidIMin => { c with pidIMin := v }
  | .pidIMax => { c with pidIMax := v }
  | .id | .cmd | .cmdStatus | .arg0 | .arg1 | .arg2 | .arg3 | .status | .timeUs | .bemfLastZcUs
  | .bemfPeriodUs | .bemfStat | .bemfCounts | .bemfPrevA | .bemfPrevB | .bemfPrevC | .zcCount | .commState
  | .commDuty | .commCount | .lastCommUs | .invState | .invDuty | .schedState | .schedDeadline
  | .schedUserFired | .rampState | .rampElapsedUs | .rampLastDelayUs | .rampFreqHz | .rampDuty
  | .rampDoneCount | .rampCtxDutyStart | .rampCtxDutyEnd | .rampCtxFreqStart | .rampCtxFreqEnd
  | .rampCtxTimeMs | .rampCtxProfile | .rampCtxLogK | .hoState | .hoDuty | .speedCmdRpm | .speedTargetRpm
  | .speedMeasRpm | .revBufRpm | .duty | .pidInteg | .pidPrevErr | .pidLastOut | .adcIa | .adcIb | .adcIc
  | .adcVa | .adcVb | .adcVc => c

/-- Writing a register other than `CMD` (rules R106, R107): an operand register stores all 32 bits, a configuration
register follows `writeCfg`, and a read-only register ignores the write. -/
def writeReg (r : Reg) (v : Word) (s : State) : State :=
  match r with
  | .arg0 => { s with iface := { s.iface with arg0 := v } }
  | .arg1 => { s with iface := { s.iface with arg1 := v } }
  | .arg2 => { s with iface := { s.iface with arg2 := v } }
  | .arg3 => { s with iface := { s.iface with arg3 := v } }
  | .id | .cmd | .cmdStatus | .status | .timeUs | .bemfLastZcUs | .bemfPeriodUs | .bemfStat | .bemfCounts
  | .bemfPrevA | .bemfPrevB | .bemfPrevC | .zcCount | .commState | .commDuty | .commCount | .lastCommUs
  | .invState | .invDuty | .schedState | .schedDeadline | .schedUserFired | .rampState | .rampElapsedUs
  | .rampLastDelayUs | .rampFreqHz | .rampDuty | .rampDoneCount | .rampCtxDutyStart | .rampCtxDutyEnd
  | .rampCtxFreqStart | .rampCtxFreqEnd | .rampCtxTimeMs | .rampCtxProfile | .rampCtxLogK | .hoState
  | .hoDuty | .speedCmdRpm | .speedTargetRpm | .speedMeasRpm | .revBufRpm | .duty | .pidInteg | .pidPrevErr
  | .pidLastOut | .adcIa | .adcIb | .adcIc | .adcVa | .adcVb | .adcVc => s
  | .bemfVscale | .bemfAmpMin | .bemfPeriodMinUs | .bemfPeriodMaxUs | .bemfLockN | .bemfUnlockM | .bemfWOld
  | .bemfWNew | .rampDutyStart | .rampDutyEnd | .rampFreqStartHz | .rampFreqEndHz | .rampTimeMs
  | .rampProfile | .rampLogK | .rampMinStepUs | .alignStep | .alignDuty | .alignTimeUs | .clEnterSpeedHz
  | .clStreakMin | .clDutyFloor | .leadFactor | .commDelayMinUs | .commDelayMaxUs | .schedMinUs
  | .clStallTimeoutUs | .polePairs | .speedSlopeRpm | .revThreshRpm | .pidKp | .pidKi | .pidKd | .pidTsS
  | .pidOutMin | .pidOutMax | .pidIMin | .pidIMax
    => { s with cfg := writeCfg r v s.cfg }

/-- `MemWrite(off, 4, v)` inside the window, for an offset other than that of `CMD` (rules R105 to R107): a write to a
reserved offset is ignored. -/
def memWrite (off : Nat) (v : Word) (s : State) : State :=
  match regAt off with
  | some r => writeReg r v s
  | none => s

/-- An access error (rule R102): a width other than four bytes, an offset that is no multiple of 4, or an offset of
0x400 or more. -/
def accessError (off : Word) (n : AccessWidth) : Bool :=
  decide (n ≠ .four) || decide (off.toNat % 4 ≠ 0) || decide (0x400 ≤ off.toNat)

end Sys2Proof.Machine
end

