-- ==== Sys2Proof/Machine/Exceptions.lean ====
section
/-! DEFINITION. The hardware fault and the power-on reset (rules R485, R530). -/

namespace Sys2Proof.Machine

/-- `FAULT_IN` (rule R485): the fault stop, and the latch that refuses energising commands until `FAULT_CLEAR`. -/
def execFaultIn (s : State) : Host.Outcome State Fault Refusal :=
  let s := safetyStop .hardwareFault s
  .next { s with ctl := { s.ctl with faultLatched := true } }

/-- `RESET` (rule R530): every state element takes its reset value.  The instance parameters and the ports are no
state elements. -/
def execReset (s : State) : Host.Outcome State Fault Refusal :=
  .next { State.reset with inst := s.inst, env := s.env }

end Sys2Proof.Machine
end

