-- ==== Sys2Proof/WellFormed.lean ====
section
/-! DEFINITION. Which instructions are well formed: the field ranges of rules R153, R154 and R158. -/

namespace Sys2Proof

/-- Rule R158 (d) and (e): the step of `INV_COMMUTATE` is at most 5; the phase of `INV_SET_PHASE` is at most 2 and
its output state at most 5.  Every other instruction is well formed at every operand. -/
def Instr.wellFormed : Instr → Bool
  | .invCommutate _ step => decide (step.toNat ≤ 5)
  | .invSetPhase phase st => decide (phase.toNat ≤ 2) && decide (st.toNat ≤ 5)
  | .nop | .bemfInit | .bemfReset | .bemfClearFlag | .bemfGetStatus => true
  | .schedStart | .schedCancel | .schedIsActive => true
  | .rampStart _ | .rampStop | .rampStopSoft | .rampGetState => true
  | .invDisable => true
  | .setSpeed | .motorStop | .setSlope | .faultClear | .pidReset | .telemetry | .clearSticky => true
  | .reset | .adcSample _ _ _ _ _ _ | .fastTick | .lowTick | .timerExpire | .faultIn => true
  | .hostWrite _ _ _ | .hostRead _ _ | .timeAdvance => true

/-- Which instructions are commands (format C, rule R150). -/
def Instr.isCommand : Instr → Bool
  | .nop | .bemfInit | .bemfReset | .bemfClearFlag | .bemfGetStatus => true
  | .schedStart | .schedCancel | .schedIsActive => true
  | .rampStart _ | .rampStop | .rampStopSoft | .rampGetState => true
  | .invCommutate _ _ | .invDisable | .invSetPhase _ _ => true
  | .setSpeed | .motorStop | .setSlope | .faultClear | .pidReset | .telemetry | .clearSticky => true
  | .reset | .adcSample _ _ _ _ _ _ | .fastTick | .lowTick | .timerExpire | .faultIn => false
  | .hostWrite _ _ _ | .hostRead _ _ | .timeAdvance => false

/-- Which instructions the environment can supply as input events: every event but the internal `TIMER_EXPIRE`
(rules R110, R163). -/
def Instr.isInput : Instr → Bool
  | .reset | .adcSample _ _ _ _ _ _ | .fastTick | .lowTick | .faultIn => true
  | .hostWrite _ _ _ | .hostRead _ _ | .timeAdvance => true
  | .timerExpire => false
  | .nop | .bemfInit | .bemfReset | .bemfClearFlag | .bemfGetStatus => false
  | .schedStart | .schedCancel | .schedIsActive => false
  | .rampStart _ | .rampStop | .rampStopSoft | .rampGetState => false
  | .invCommutate _ _ | .invDisable | .invSetPhase _ _ => false
  | .setSpeed | .motorStop | .setSlope | .faultClear | .pidReset | .telemetry | .clearSticky => false

end Sys2Proof
end

