-- ==== Sys2Proof/Decode.lean ====
section
/-! DEFINITION. The command-word decoder (rules R150 to R158), the event decoder (rules R161 to R163), and the encoder
of both, written from the same field tables. -/

namespace Sys2Proof

/-! ### Format C: the command word (rule R150) -/

/-- `OPC`, bits [7:0] (rule R150). -/
def opcField (w : Word) : BitVec 8 := w.extractLsb' 0 8

/-- `D`, bit 8 (rule R152). -/
def dField (w : Word) : BitVec 1 := w.extractLsb' 8 1

/-- `S`, bits [11:9] (rule R153). -/
def sField (w : Word) : BitVec 3 := w.extractLsb' 9 3

/-- `ST`, bits [14:12] (rule R154). -/
def stField (w : Word) : BitVec 3 := w.extractLsb' 12 3

/-- The reserved bits [31:15] (rule R155). -/
def reservedField (w : Word) : BitVec 17 := w.extractLsb' 15 17

/-- The direction a bit stands for: 0 CW, 1 CCW (rule R50). -/
def dirOfBit (b : BitVec 1) : Dir := if b = 0 then .cw else .ccw

/-- The bit of a direction (rule R50). -/
def bitOfDir : Dir → BitVec 1
  | .cw => 0
  | .ccw => 1

/-- An opcode that uses no field requires `D`, `S` and `ST` to be 0 (rule R158 (c)). -/
def noFields (w : Word) (i : Instr) : Except IllegalWord Instr :=
  if dField w = 0 ∧ sField w = 0 ∧ stField w = 0 then .ok i else .error .unusedField

/-- The instruction a command word stands for, or the clause of rule R158 that makes it illegal. -/
def decodeCommand (w : Word) : Except IllegalWord Instr :=
  if reservedField w ≠ 0 then .error .reservedBits else
  match (opcField w).toNat with
  | 0x00 => noFields w .nop
  | 0x01 => noFields w .bemfInit
  | 0x02 => noFields w .bemfReset
  | 0x03 => noFields w .bemfClearFlag
  | 0x04 => noFields w .bemfGetStatus
  | 0x10 => noFields w .schedStart
  | 0x11 => noFields w .schedCancel
  | 0x12 => noFields w .schedIsActive
  | 0x20 =>
    if sField w = 0 ∧ stField w = 0 then .ok (.rampStart (dirOfBit (dField w))) else .error .unusedField
  | 0x21 => noFields w .rampStop
  | 0x22 => noFields w .rampStopSoft
  | 0x23 => noFields w .rampGetState
  | 0x30 =>
    if stField w ≠ 0 then .error .unusedField
    else if 5 < (sField w).toNat then .error .stepRange
    else .ok (.invCommutate (dirOfBit (dField w)) (sField w))
  | 0x31 => noFields w .invDisable
  | 0x32 =>
    if dField w ≠ 0 then .error .unusedField
    else if 2 < (sField w).toNat then .error .phaseRange
    else if 5 < (stField w).toNat then .error .stateRange
    else .ok (.invSetPhase (sField w) (stField w))
  | 0x40 => noFields w .setSpeed
  | 0x41 => noFields w .motorStop
  | 0x42 => noFields w .setSlope
  | 0x43 => noFields w .faultClear
  | 0x44 => noFields w .pidReset
  | 0x45 => noFields w .telemetry
  | 0x46 => noFields w .clearSticky
  | _ => .error .unlistedOpcode

/-! ### Format E: events (rules R161 to R163) -/

/-- A raw ADC value, refused above 0xFFFF (rule R162). -/
def adcValue (w : Word) : Except EventReject Half :=
  if w.toNat < 0x10000 then .ok (w.setWidth 16) else .error .adcRange

/-- DESIGN CHOICE (log 8, safe).  The bus width a host access record names: none given is the four-byte access of rule R121; a width word
names one of the other widths of rule R102. -/
def widthOf : List Word → Except EventReject AccessWidth
  | [] => .ok .four
  | [n] => if n = 1 then .ok .one else if n = 2 then .ok .two else if n = 8 then .ok .eight else .error .payloadShape
  | _ => .error .payloadShape

/-- The event a format E word and its payload stand for, or why they are none (rules R161 to R163). -/
def decodeEvent (code : Word) (payload : List Word) : Except EventReject Instr :=
  if code.extractLsb' 4 28 ≠ 0 then .error .formatBits else
  match code.toNat, payload with
  | 0x0, [] => .ok .reset
  | 0x1, [ia, ib, ic, va, vb, vc] => do
    let ia ← adcValue ia
    let ib ← adcValue ib
    let ic ← adcValue ic
    let va ← adcValue va
    let vb ← adcValue vb
    let vc ← adcValue vc
    .ok (.adcSample ia ib ic va vb vc)
  | 0x2, [] => .ok .fastTick
  | 0x3, [] => .ok .lowTick
  | 0x4, _ => .error .internalCode
  | 0x5, [] => .ok .faultIn
  | 0x6, off :: v :: rest => do
    let n ← widthOf rest
    .ok (.hostWrite off v n)
  | 0x7, off :: rest => do
    let n ← widthOf rest
    .ok (.hostRead off n)
  | 0x8, [] => .ok .timeAdvance
  | code, _ => if code ≤ 0x8 then .error .payloadShape else .error .reservedCode

/-! ### The encoder -/

/-- The command word `{17'b0, ST, S, D, OPC}` (rules R150, R165). -/
def commandWord (opc : BitVec 8) (d : BitVec 1) (s st : BitVec 3) : Word := 0#17 ++ st ++ s ++ d ++ opc

/-- The opcode word of a command with no fields. -/
def plainWord (opc : BitVec 8) : Word := commandWord opc 0 0 0

/-- The extra payload word of an access that is not four bytes wide. -/
def widthWords : AccessWidth → List Word
  | .four => []
  | .one => [1]
  | .two => [2]
  | .eight => [8]

/-- The words of an instruction: one command word for a command (rule R156), the format E word and its payload for
an event (rule R161). -/
def encode : Instr → List Word
  | .nop => [plainWord 0x00]
  | .bemfInit => [plainWord 0x01]
  | .bemfReset => [plainWord 0x02]
  | .bemfClearFlag => [plainWord 0x03]
  | .bemfGetStatus => [plainWord 0x04]
  | .schedStart => [plainWord 0x10]
  | .schedCancel => [plainWord 0x11]
  | .schedIsActive => [plainWord 0x12]
  | .rampStart d => [commandWord 0x20 (bitOfDir d) 0 0]
  | .rampStop => [plainWord 0x21]
  | .rampStopSoft => [plainWord 0x22]
  | .rampGetState => [plainWord 0x23]
  | .invCommutate d step => [commandWord 0x30 (bitOfDir d) step 0]
  | .invDisable => [plainWord 0x31]
  | .invSetPhase phase st => [commandWord 0x32 0 phase st]
  | .setSpeed => [plainWord 0x40]
  | .motorStop => [plainWord 0x41]
  | .setSlope => [plainWord 0x42]
  | .faultClear => [plainWord 0x43]
  | .pidReset => [plainWord 0x44]
  | .telemetry => [plainWord 0x45]
  | .clearSticky => [plainWord 0x46]
  | .reset => [0x0]
  | .adcSample ia ib ic va vb vc =>
    [0x1, ia.setWidth 32, ib.setWidth 32, ic.setWidth 32, va.setWidth 32, vb.setWidth 32, vc.setWidth 32]
  | .fastTick => [0x2]
  | .lowTick => [0x3]
  | .timerExpire => [0x4]
  | .faultIn => [0x5]
  | .hostWrite off v n => 0x6 :: off :: v :: widthWords n
  | .hostRead off n => 0x7 :: off :: widthWords n
  | .timeAdvance => [0x8]

/-- What the words of an instruction decode to: command words by the command decoder, event records by the event
decoder.  The two formats share no word stream: a command word reaches the core only inside a `HOST_WRITE`
(rule R151). -/
def decodeAs (command : Bool) : List Word → Option Instr
  | [] => none
  | w :: rest =>
    if command then
      match rest with
      | [] => (decodeCommand w).toOption
      | _ :: _ => none
    else (decodeEvent w rest).toOption

/-! ### Opcode-table words, as the table numbers their bits -/

/-- How many payload words the table of rule R161 gives an event code. -/
def payloadLength (code : Word) : Nat :=
  match code.toNat with
  | 0x1 => 6
  | 0x6 => 2
  | 0x7 => 1
  | _ => 0

/-- The words of a table row's bits, `count` of them, the least significant first. -/
def splitWords (w : Nat) : Nat → List Word
  | 0 => []
  | count + 1 => BitVec.ofNat 32 w :: splitWords (w / 2 ^ 32) count

/-- Where a table word is delivered, as a format E word with its payload.  A word of format C is written to `CMD`
(offset 0x004, rule R151); a word that is no command word but a format E word is that event. The table gives
both formats the words 0 to 4: there format C, the core's one instruction format (rule R150), is taken
(DESIGN CHOICE, log 12, safe). -/
def tableRecord (nbits w : Nat) : Word × List Word :=
  let w := w % 2 ^ nbits
  let first := BitVec.ofNat 32 w
  let payload := splitWords (w / 2 ^ 32) (payloadLength first)
  if w < 2 ^ 32 ∧ (decodeCommand first).toOption.isSome then (0x6, [0x004, first])
  else if (decodeEvent first payload).toOption.isSome then (first, payload)
  else (0x6, [0x004, first])

/-- The instruction the decoders read from a table word: the command a `HOST_WRITE` to `CMD` carries, or the event
itself. -/
def decodeTableWord (nbits w : Nat) : Option Instr :=
  let r := tableRecord nbits w
  match (decodeEvent r.1 r.2).toOption with
  | some (.hostWrite off v n) =>
    if off = 0x004 ∧ n = .four then (decodeCommand v).toOption else some (.hostWrite off v n)
  | other => other

end Sys2Proof
end

