-- ==== Sys2Proof/Machine/Control.lean ====
section
/-! DEFINITION. The control and telemetry commands (file 45_control_commands.md). -/

namespace Sys2Proof.Machine

/-- `NOP` (rule R450): only `CMD_STATUS` is written. -/
def execNop (s : State) : Host.Outcome State Fault Refusal := command 0x00 [] (fun s => s) s

/-- `MOTOR_STOP` (rule R451). -/
def execMotorStop (s : State) : Host.Outcome State Fault Refusal :=
  command 0x41 [] (safetyStop .stopCommand) s

/-- `FAULT_CLEAR` (rule R452). -/
def execFaultClear (s : State) : Host.Outcome State Fault Refusal :=
  command 0x43 [] (fun s => { s with ctl := { s.ctl with faultLatched := false } }) s

/-- `TELEMETRY` (rule R453). -/
def execTelemetry (s : State) : Host.Outcome State Fault Refusal :=
  command 0x45 []
    (fun s => setArgs s (telemetryWord s) (bits s.inst s.speed.meas) s.bemf.zcCount s.comm.count) s

/-- `CLEAR_STICKY` (rule R454). -/
def execClearSticky (s : State) : Host.Outcome State Fault Refusal :=
  command 0x46 [] (fun s => { s with adc := { s.adc with overrun := false } }) s

end Sys2Proof.Machine
end

