-- ==== Sys2Proof/Machine/Scheduler.lean ====
section
/-! DEFINITION. The scheduler commands (file 41_scheduler.md, rules R255, R256 and R258).  The slot's procedures are in
`Ops.lean` and its expiry is in `Timer.lean`. -/

namespace Sys2Proof.Machine

/-- `SCHED_START` (rule R255): arms the slot with the host's `T_USER` event. -/
def execSchedStart (s : State) : Host.Outcome State Fault Refusal :=
  command 0x10 [busyUnlessStopped s, badArgIf (decide (0x7FFFFFFF < s.iface.arg0))]
    (fun s => schedStart s.env.time s.iface.arg0 .user s) s

/-- `SCHED_CANCEL` (rule R256). -/
def execSchedCancel (s : State) : Host.Outcome State Fault Refusal :=
  command 0x11 [busyUnlessStopped s] schedCancel s

/-- `SCHED_IS_ACTIVE` (rule R258): `ARG3` is unchanged. -/
def execSchedIsActive (s : State) : Host.Outcome State Fault Refusal :=
  command 0x12 []
    (fun s => setArgs s ((bit s.sched.active).setWidth 32) s.sched.deadline ((tagCode s.sched.tag).setWidth 32)
      s.iface.arg3) s

end Sys2Proof.Machine
end

