-- ==== Sys2Proof/Machine/Bemf.lean ====
section
/-! DEFINITION. The BEMF zero-crossing detector and period filter (file 40_bemf.md): the ADC producer, the processing of one
sample, and the BEMF commands. -/

namespace Sys2Proof.Machine

/-- `ADC_SAMPLE` (rules R200, R201): the whole set is written before the flag is raised; an unconsumed set is
overwritten and `ADC_OVERRUN` records it. -/
def execAdcSample (ia ib ic va vb vc : Half) (s : State) : Host.Outcome State Fault Refusal :=
  .next { s with adc := { i := ⟨ia, ib, ic⟩, v := ⟨va, vb, vc⟩, isNew := true,
                          overrun := s.adc.overrun || s.adc.isNew } }

/-- `v[ph]`, the voltage of a control phase (rule R203). -/
def phaseVoltage (s : State) (ph : CPhase) : F32 :=
  F32.mul (F32.ofNat (getH s.adc.v (mapPhase s.inst.phaseMap ph)).toNat) (F32.ofWord s.cfg.bemfVScale)

/-- The virtual neutral (rule R204). -/
def virtualNeutral (s : State) : F32 :=
  F32.div (F32.add (F32.add (phaseVoltage s .a) (phaseVoltage s .b)) (phaseVoltage s .c)) F32.three

/-- `bemf_of(fp)`, the signed BEMF of the floating phase (rule R205). -/
def bemfOf (s : State) (fp : CPhase) : F32 := F32.sub (phaseVoltage s fp) (virtualNeutral s)

/-- `crossing(p, b)`: a sign change; zeros and NaN count as non-negative (rule R207). -/
def crossing (p b : F32) : Bool := F32.lt p ⟨0⟩ != F32.lt b ⟨0⟩

/-- `noise(p, b)`: both magnitudes are below `BEMF_AMP_MIN` (rule R208). -/
def noise (c : Cfg) (p b : F32) : Bool :=
  F32.lt (F32.abs b) (F32.ofWord c.bemfAmpMin) && F32.lt (F32.abs p) (F32.ofWord c.bemfAmpMin)

/-- `baseline(t)` (rule R210). -/
def baseline (t : Word) (s : State) : State := { s with bemf := { s.bemf with baselineDone := true, lastZc := t } }

/-- `period_reject(t)` (rule R211). -/
def periodReject (t : Word) (s : State) : State :=
  let count := inc16 s.bemf.invalidCnt
  { s with bemf := { s.bemf with
      lastZc := if s.inst.zcTsOnInvalid then t else s.bemf.lastZc
      invalidCnt := count
      validCnt := 0
      valid := if s.cfg.bemfUnlockM ≤ count then false else s.bemf.valid } }

/-- The period filter's new estimate from an elapsed time (rule R213). -/
def filteredPeriod (s : State) (e : Word) : F32 :=
  let ef := F32.ofNat e.toNat
  if s.bemf.periodSeeded then
    F32.add (F32.mul (F32.ofWord s.cfg.bemfWOld) s.bemf.period) (F32.mul (F32.ofWord s.cfg.bemfWNew) ef)
  else ef

/-- `period_accept(fp, e)` (rules R212 to R215): the invalid counter, the filter, the lock counter and the
publication. -/
def periodAccept (fp : CPhase) (e : Word) (s : State) : State :=
  let count := inc16 s.bemf.validCnt
  { s with bemf := { s.bemf with
      invalidCnt := 0
      period := filteredPeriod s e
      periodSeeded := true
      validCnt := count
      valid := if s.cfg.bemfLockN ≤ count then true else s.bemf.valid
      zcPhase := fp
      zcFlag := true
      zcCount := inc32 s.bemf.zcCount } }

/-- Recording the timestamp of an accepted crossing (rule R209). -/
def recordCrossing (t : Word) (s : State) : State := { s with bemf := { s.bemf with lastZc := t } }

/-- `zc_timing(fp, t)` (rule R209). -/
def zcTiming (fp : CPhase) (t : Word) (s : State) : State :=
  if s.bemf.baselineDone then
    let e := t - s.bemf.lastZc
    if e < s.cfg.bemfPeriodMinUs ∨ s.cfg.bemfPeriodMaxUs < e then periodReject t s
    else periodAccept fp e (recordCrossing t s)
  else baseline t s

/-- Consuming the sample set: `ADC_NEW <- 0` (rules R118, R202). -/
def consumeSample (s : State) : State := { s with adc := { s.adc with isNew := false } }

/-- Storing the processed sample of a phase (rule R206). -/
def storeSample (fp : CPhase) (b : F32) (s : State) : State :=
  { s with bemf := { s.bemf with prev := setC s.bemf.prev fp b, prevOk := setC s.bemf.prevOk fp true } }

/-- `bemf_process(fp, t)` (rule R202). -/
def bemfProcess (fp : CPhase) (t : Word) (s : State) : State :=
  if s.bemf.initDone && s.adc.isNew then
    let b := bemfOf s fp
    let p := getC s.bemf.prev fp
    let s' := storeSample fp b (consumeSample s)
    if getC s.bemf.prevOk fp && crossing p b && !noise s.cfg p b then zcTiming fp t s' else s'
  else s

/-- `BEMF_INIT` (rule R220). -/
def execBemfInit (s : State) : Host.Outcome State Fault Refusal :=
  command 0x01 [busyUnlessStopped s]
    (fun s => let s := bemfReset s; { s with bemf := { s.bemf with initDone := true } }) s

/-- `BEMF_RESET` (rule R223). -/
def execBemfReset (s : State) : Host.Outcome State Fault Refusal :=
  command 0x02 [busyUnlessStopped s] bemfReset s

/-- `ZC_FLAG <- 0` (rules R221, R341). -/
def clearZcFlag (s : State) : State := { s with bemf := { s.bemf with zcFlag := false } }

/-- `BEMF_CLEAR_FLAG` (rule R221). -/
def execBemfClearFlag (s : State) : Host.Outcome State Fault Refusal :=
  command 0x03 [] clearZcFlag s

/-- `BEMF_GET_STATUS` (rule R222). -/
def execBemfGetStatus (s : State) : Host.Outcome State Fault Refusal :=
  command 0x04 []
    (fun s => setArgs s (bemfSnapshotWord s.bemf) (bits s.inst s.bemf.period) s.bemf.lastZc
      (bemfCountsWord s.bemf)) s

end Sys2Proof.Machine
end

