-- ==== Sys2Proof/Machine/Ramp.lean ====
section
/-! DEFINITION. The open-loop ramp engine (file 42_ramp.md). -/

namespace Sys2Proof.Machine

/-- The step period law `1e6 / (6 × x)`, each operation rounded (rules R280, R342, R401). -/
def periodLaw (x : F32) : F32 := F32.div F32.million (F32.mul F32.six x)

/-- `ramp_delay(f)` (rule R280). -/
def rampDelay (c : Cfg) (f : F32) : Word :=
  let raw := F32.u31sat (periodLaw f)
  if raw < c.rampMinStepUs then c.rampMinStepUs else raw

/-- The copies `ramp_start` takes of the ramp configuration (rule R281). -/
def rampCopies (c : Cfg) : RampCtx :=
  { ds := F32.ofWord c.rampDutyStart, de := F32.ofWord c.rampDutyEnd, fs := F32.ofWord c.rampFreqStartHz,
    fe := F32.ofWord c.rampFreqEndHz, tMs := c.rampTimeMs, prof := c.rampProfile, logK := F32.ofWord c.rampLogK }

/-- The ramp context at the start of a ramp (rule R281). -/
def openRamp (owner : Owner) (dir : Dir) (s : State) : State :=
  { s with ramp := { s.ramp with
      ctx := rampCopies s.cfg
      step := 0
      elapsed := 0
      freq := (rampCopies s.cfg).fs
      duty := (rampCopies s.cfg).ds
      owner := owner
      dir := dir
      active := true } }

/-- `RAMP_LAST_DELAY <- d` and the scheduling of the next step (rules R281, R291). -/
def scheduleStep (t d : Word) (s : State) : State :=
  schedStart t d .rampStep { s with ramp := { s.ramp with lastDelay := d } }

/-- `ramp_start(t, owner, dir)` (rule R281). -/
def rampStart (t : Word) (owner : Owner) (dir : Dir) (s : State) : State :=
  let s := openRamp owner dir (schedCancel s)
  let s := applyCommutation 0 s.ramp.ctx.ds dir t s
  scheduleStep t (rampDelay s.cfg s.ramp.ctx.fs) s

/-- `total`, an exact integer (rule R284). -/
def rampTotal (c : RampCtx) : Nat := c.tMs.toNat * 1000

/-- The progress ratio `r` (rule R285). -/
def rampRatio (r : Ramp) : F32 :=
  F32.clampf (F32.div (F32.ofNat r.elapsed.toNat) (F32.ofNat (rampTotal r.ctx))) ⟨0⟩ F32.one

/-- `freq_of(0, r)`, Linear (rule R286). -/
def freqLinear (c : RampCtx) (r : F32) : F32 :=
  F32.add (F32.mul (F32.sub F32.one r) c.fs) (F32.mul r c.fe)

/-- `freq_of(1, r)`, Exponential (rule R287). -/
def freqExponential (c : RampCtx) (r : F32) : F32 := F32.mul c.fs (F32.pow32 (F32.div c.fe c.fs) r)

/-- `freq_of(2, r)`, Quadratic (rule R288). -/
def freqQuadratic (c : RampCtx) (r : F32) : F32 := F32.add c.fs (F32.mul (F32.mul r r) (F32.sub c.fe c.fs))

/-- `freq_of(3, r)`, Logarithmic (rule R289). -/
def freqLogarithmic (c : RampCtx) (r : F32) : F32 :=
  F32.sub c.fe (F32.mul (F32.sub c.fe c.fs) (F32.exp32 (F32.neg (F32.mul c.logK r))))

/-- `freq_of(CTX_PROF, r)` (rules R286 to R289). -/
def freqOf (c : RampCtx) (r : F32) : F32 :=
  match c.prof.toNat with
  | 0 => freqLinear c r
  | 1 => freqExponential c r
  | 2 => freqQuadratic c r
  | _ => freqLogarithmic c r

/-- `duty_of(r)` (rule R290). -/
def dutyOf (c : RampCtx) (r : F32) : F32 :=
  F32.add c.ds (F32.mul (F32.mul r (F32.sqrt r)) (F32.sub c.de c.ds))

/-- The frequency, duty and step index `advance` writes (rule R291). -/
def advanceRamp (f d : F32) (s : State) : State :=
  { s with ramp := { s.ramp with freq := f, duty := d, step := s.ramp.step + 1 } }

/-- `advance(t, f, d)` (rule R291). -/
def advance (t : Word) (f d : F32) (s : State) : State :=
  let s := advanceRamp f d s
  let s := applyCommutation s.ramp.step d s.ramp.dir t s
  scheduleStep t (rampDelay s.cfg f) s

/-- `RAMP_ACTIVE <- 0` (rules R284, R293). -/
def deactivateRamp (s : State) : State := { s with ramp := { s.ramp with active := false } }

/-- `RAMP_DONE_COUNT <- inc32(RAMP_DONE_COUNT)` (rule R284). -/
def countRamp (s : State) : State := { s with ramp := { s.ramp with doneCount := inc32 s.ramp.doneCount } }

/-- `ramp_complete_sm(t)` (rule R354). -/
def rampCompleteSm (s : State) : State := safetyStop .rampEnd s

/-- `ramp_finish(t)` (rule R284). -/
def rampFinish (s : State) : State :=
  let s := countRamp (inverterDisable (deactivateRamp s))
  match s.ramp.owner with
  | .stateMachine => rampCompleteSm s
  | .host => s

/-- `RAMP_ELAPSED` grows by the delay of the step that just ended (rule R283). -/
def addElapsed (s : State) : State :=
  { s with ramp := { s.ramp with elapsed := satadd32 s.ramp.elapsed s.ramp.lastDelay } }

/-- `ramp_step(t)`, the `T_RAMP_STEP` callback (rule R282). -/
def rampStep (t : Word) (s : State) : State :=
  let s := addElapsed s
  if rampTotal s.ramp.ctx ≤ s.ramp.elapsed.toNat then rampFinish s
  else
    let r := rampRatio s.ramp
    advance t (freqOf s.ramp.ctx r) (dutyOf s.ramp.ctx r) s

/-- `ramp_stop()` (rule R292). -/
def rampStop (s : State) : State := rampClear (inverterDisable (schedCancel s))

/-- `ramp_stop_soft()` (rule R293). -/
def rampStopSoft (s : State) : State := deactivateRamp (schedCancel s)

/-- `ramp_get_state()` (rule R294). -/
def rampGetState (s : State) : StepIx × F32 × Dir := (s.ramp.step, s.ramp.duty, s.ramp.dir)

/-- `RAMP_GET_STATE` (rule R295). -/
def execRampGetState (s : State) : Host.Outcome State Fault Refusal :=
  command 0x23 []
    (fun s =>
      let (k, d, r) := rampGetState s
      setArgs s ((stepCode k).setWidth 32) (bits s.inst d) ((dirBit r).setWidth 32)
        ((bit s.ramp.active).setWidth 32)) s

/-- `RAMP_START` (rule R296). -/
def execRampStart (d : Dir) (s : State) : Host.Outcome State Fault Refusal :=
  command 0x20 [busyUnlessStopped s, faultIfLatched s] (fun s => rampStart s.env.time .host d s) s

/-- `RAMP_STOP` (rule R297). -/
def execRampStop (s : State) : Host.Outcome State Fault Refusal :=
  command 0x21 [busyUnlessStopped s] rampStop s

/-- `RAMP_STOP_SOFT` (rule R298). -/
def execRampStopSoft (s : State) : Host.Outcome State Fault Refusal :=
  command 0x22 [busyUnlessStopped s] rampStopSoft s

end Sys2Proof.Machine
end

