-- ==== Sys2Proof/Machine/Commutation.lean ====
section
/-! DEFINITION. The six-step sequencer and its state machine (file 43_commutation.md): alignment, handover, closed-loop
commutation, the fast tick and the inverter commands. -/

namespace Sys2Proof.Machine

/-- `INV_COMMUTATE` (rule R336).  A step above 5 is illegal (rule R158 (d)); no word decodes to one (log 14, safe). -/
def execInvCommutate (d : Dir) (step : BitVec 3) (s : State) : Host.Outcome State Fault Refusal :=
  match stepOfField step with
  | none => .next (cmdError 0x30 .illegal s)
  | some k =>
    command 0x30 [busyUnlessStopped s, faultIfLatched s]
      (fun s => applyCommutation k (arg0F32 s) d s.env.time s) s

/-- `INV_DISABLE` (rule R337). -/
def execInvDisable (s : State) : Host.Outcome State Fault Refusal :=
  command 0x31 [busyUnlessStopped s] inverterDisable s

/-- `INV_SET_PHASE` (rule R338).  A phase above 2 or a state above 5 is illegal (rule R158 (e)). -/
def execInvSetPhase (phase st : BitVec 3) (s : State) : Host.Outcome State Fault Refusal :=
  match hphaseOfField phase, outStateOfField st with
  | some h, some o =>
    command 0x32 [busyUnlessStopped s, faultIfLatched s] (setOutputState h o) s
  | none, _ => .next (cmdError 0x32 .illegal s)
  | _, none => .next (cmdError 0x32 .illegal s)

/-- `comm_delay(P)` (rule R353). -/
def commDelay (c : Cfg) (period : F32) : Word :=
  clampu (F32.u31sat (F32.mul period (F32.ofWord c.leadFactor))) c.commDelayMinUs c.commDelayMaxUs

/-- `ALIGNING <- 0` (rule R346). -/
def endAlignment (s : State) : State := { s with ctl := { s.ctl with aligning := false } }

/-- `align_done(t)`, the `T_ALIGN_DONE` callback (rule R346). -/
def alignDone (t : Word) (s : State) : State :=
  let s := bemfReset (endAlignment s)
  rampStart t .stateMachine s.speed.motorDir s

/-- `arm_first_cl(t)` (rule R350). -/
def armFirstCl (t : Word) (s : State) : State :=
  let s := schedStart t (F32.u31sat s.bemf.period) .clComm s
  { s with comm := { s.comm with armed := true, handoverArmed := true } }

/-- The mode and speed state that `handover_fire` writes (rule R349). -/
def enterClosedLoop (s : State) : State :=
  let s := rampStopSoft { s with ctl := { s.ctl with mode := .closedLoop } }
  { s with
    speed := { s.speed with target := s.speed.meas, duty := s.ho.duty }
    comm := { s.comm with transition := false } }

/-- `handover_fire(t)`, the `T_HANDOVER` callback (rule R349). -/
def handoverFire (t : Word) (s : State) : State :=
  armFirstCl t (enterClosedLoop (applyCommutation (s.ho.step + 1) s.ho.duty s.ho.dir t s))

/-- The capture of `handover_plan`: step, direction, and the duty raised to the floor (rule R348). -/
def captureRamp (s : State) : State :=
  let (k, d, r) := rampGetState s
  { s with
    ho := { s.ho with step := k, dir := r, duty := F32.maxf d (F32.ofWord s.cfg.clDutyFloor) }
    comm := { s.comm with transition := true } }

/-- `handover_plan(t)` (rule R348). -/
def handoverPlan (t : Word) (s : State) : State :=
  let s := captureRamp s
  let delay := commDelay s.cfg s.bemf.period
  let age := t - s.bemf.lastZc
  if delay ≤ age ∨ delay - age < s.cfg.schedMinUs then handoverFire t s
  else schedStart t (delay - age) .handover s

/-- A crossing that counts toward the handover: valid BEMF, electrical speed above the threshold, and the expected
floating phase (rules R342, R347). -/
def qualifies (s : State) : Bool :=
  s.bemf.valid && F32.gt (periodLaw s.bemf.period) (F32.ofWord s.cfg.clEnterSpeedHz) &&
    decide (s.bemf.zcPhase = s.comm.float)

/-- `STREAK <- n` (rule R347). -/
def setStreak (n : Half) (s : State) : State := { s with ho := { s.ho with streak := n } }

/-- `handover_eval(t)` (rule R347). -/
def handoverEval (t : Word) (s : State) : State :=
  if qualifies s then
    let s := setStreak (inc16 s.ho.streak) s
    if s.ho.streak < s.cfg.clStreakMin then s else handoverPlan t s
  else setStreak 0 s

/-- `cl_zc(t)` (rule R351). -/
def clZc (t : Word) (s : State) : State :=
  if s.bemf.zcPhase = s.comm.float ∧ s.comm.armed = false then
    let s := schedStart t (commDelay s.cfg s.bemf.period) .clComm s
    { s with comm := { s.comm with armed := true } }
  else s

/-- `cl_fire(t)`, the `T_CL_COMM` callback (rule R352). -/
def clFire (t : Word) (s : State) : State :=
  let s := applyCommutation (s.comm.step + 1) s.speed.duty s.comm.dir t s
  { s with comm := { s.comm with armed := false, handoverArmed := false } }

/-- The ramping phase, in which a crossing is evaluated for the handover (rules R339, R341). -/
def ramping (s : State) : Bool :=
  !s.ctl.aligning && s.ramp.active && decide (s.ramp.owner = .stateMachine) && !s.comm.transition

/-- `sm_fast(t)` (rule R341). -/
def smFast (t : Word) (s : State) : State :=
  if s.bemf.zcFlag then
    match s.ctl.mode with
    | .stopped => s
    | .openLoop =>
      let s := clearZcFlag s
      if ramping s then handoverEval t s else s
    | .closedLoop => clZc t (clearZcFlag s)
  else s

/-- `stall_check(t)` (rule R343). -/
def stallCheck (t : Word) (s : State) : State :=
  if s.ctl.mode = .closedLoop ∧ s.cfg.clStallTimeoutUs ≠ 0 ∧ s.cfg.clStallTimeoutUs < t - s.comm.lastComm then
    safetyStop .stallTimeout s
  else s

/-- `FAST_TICK` (rule R340): BEMF processing, then the state machine, then the stall check. -/
def execFastTick (s : State) : Host.Outcome State Fault Refusal :=
  let t := s.env.time
  .next (stallCheck t (smFast t (bemfProcess s.comm.float t s)))

end Sys2Proof.Machine
end

