-- ==== Sys2Proof/Machine/SpeedRegulator.lean ====
section
/-! DEFINITION. The speed regulator, the PID and direction reversal (file 44_speed_regulator.md). -/

namespace Sys2Proof.Machine

/-- `rpm_of(P)` (rule R401). -/
def rpmOf (c : Cfg) (period : F32) : F32 :=
  F32.div (F32.mul (periodLaw period) F32.sixty) (F32.ofNat c.polePairs.toNat)

/-- `slew(x, c, s)` (rule R402). -/
def slew (x c s : F32) : F32 :=
  if F32.lt x c then F32.minf (F32.add x s) c
  else if F32.gt x c then F32.maxf (F32.sub x s) c
  else c

/-- `REVERSE_PENDING`'s completion: the direction flipped and the buffered magnitude commanded (rule R403). -/
def applyReversal (buf : F32) (s : State) : State :=
  { s with speed := { s.speed with motorDir := flipDir s.speed.motorDir, cmd := buf } }

/-- `reversal(t)` (rule R403). -/
def reversal (t : Word) (s : State) : State :=
  startRun t (applyReversal s.speed.revBuf (safetyStop .reversal s))

/-- The error `e` of a PID step (rule R406). -/
def pidError (sp pv : F32) : F32 := F32.sub sp pv

/-- The clamped integral after a PID step with error `e` (rule R406). -/
def pidIntegral (c : Cfg) (p : Pid) (e : F32) : F32 :=
  F32.clampf (F32.add p.integ (F32.mul (F32.mul (F32.ofWord c.pidKi) e) (F32.ofWord c.pidTsS)))
    (F32.ofWord c.pidIMin) (F32.ofWord c.pidIMax)

/-- The saturated output of a PID step with error `e` (rule R406). -/
def pidOutput (c : Cfg) (p : Pid) (e : F32) : F32 :=
  let dterm := F32.div (F32.sub e p.prevErr) (F32.ofWord c.pidTsS)
  F32.clampf
    (F32.add (F32.add (F32.mul (F32.ofWord c.pidKp) e) (pidIntegral c p e)) (F32.mul (F32.ofWord c.pidKd) dterm))
    (F32.ofWord c.pidOutMin) (F32.ofWord c.pidOutMax)

/-- The PID state after `pid_step(sp, pv)` (rule R406); its `lastOut` is the output `u`. -/
def pidStep (c : Cfg) (p : Pid) (sp pv : F32) : Pid :=
  let e := pidError sp pv
  { integ := pidIntegral c p e, prevErr := e, lastOut := pidOutput c p e }

/-- The measurement of a low tick (rule R400). -/
def measureSpeed (s : State) : State :=
  if s.bemf.valid then { s with speed := { s.speed with meas := rpmOf s.cfg s.bemf.period } } else s

/-- Whether a pending reversal goes ahead (rule R400). -/
def reversalDue (s : State) : Bool :=
  s.speed.reversePending && decide (s.ctl.mode ≠ .stopped) &&
    F32.lt s.speed.meas (F32.ofWord s.cfg.revThreshRpm)

/-- The target of a low tick (rule R400): slewed in ClosedLoop, 0 otherwise. -/
def rampTarget (s : State) : State :=
  { s with speed := { s.speed with target :=
      match s.ctl.mode with
      | .closedLoop => slew s.speed.target s.speed.cmd (F32.ofWord s.cfg.speedSlopeRpm)
      | .stopped => f32Zero
      | .openLoop => f32Zero } }

/-- The PID of a low tick (rule R400): run in ClosedLoop with a valid BEMF. -/
def regulate (s : State) : State :=
  if s.ctl.mode = .closedLoop ∧ s.bemf.valid = true then
    let p := pidStep s.cfg s.pid s.speed.target s.speed.meas
    { s with pid := p, speed := { s.speed with duty := p.lastOut } }
  else s

/-- `LOW_TICK` (rule R400). -/
def execLowTick (s : State) : Host.Outcome State Fault Refusal :=
  let s := measureSpeed s
  .next (if reversalDue s then reversal s.env.time s else regulate (rampTarget s))

/-- `PID_RESET` (rule R408). -/
def execPidReset (s : State) : Host.Outcome State Fault Refusal :=
  command 0x44 [] pidReset s

/-- `SET_SLOPE` (rule R409): the slope must be finite and not negative. -/
def execSetSlope (s : State) : Host.Outcome State Fault Refusal :=
  command 0x42 [badArgIf (!nonnegFinite s.iface.arg0)]
    (fun s => { s with cfg := { s.cfg with speedSlopeRpm := s.iface.arg0 } }) s

/-- `SPEED_CMD <- v; REVERSE_PENDING <- 0; REV_BUF <- +0.0` (rule R410). -/
def commandSpeed (v : F32) (s : State) : State :=
  { s with speed := { s.speed with cmd := v, reversePending := false, revBuf := f32Zero } }

/-- Buffering the magnitude of a command against the running direction (rule R410). -/
def bufferReversal (mag : F32) (s : State) : State :=
  { s with speed := { s.speed with cmd := f32Zero, revBuf := mag, reversePending := true } }

/-- The direction of a signed speed: CCW if negative; `+0` and `-0` are CW (rule R410). -/
def speedDir (x : F32) : Dir := if F32.lt x ⟨0⟩ then .ccw else .cw

/-- A run commanded from Stopped: direction, magnitude, `start_run` (rule R410). -/
def beginRun (t : Word) (d : Dir) (mag : F32) (s : State) : State :=
  startRun t { s with speed := { s.speed with motorDir := d, cmd := mag } }

/-- What `SET_SPEED` does with an accepted signed speed `x` at time `t` (rule R410). -/
def setSpeed (t : Word) (x : F32) (s : State) : State :=
  let mag := F32.abs x
  let d := speedDir x
  match s.ctl.mode with
  | .stopped =>
    if mag.isZero then { s with speed := { s.speed with cmd := f32Zero } } else beginRun t d mag s
  | .openLoop | .closedLoop =>
    if mag.isZero then commandSpeed f32Zero s
    else if d = s.speed.motorDir then commandSpeed mag s
    else bufferReversal mag s

/-- `SET_SPEED` (rule R410). -/
def execSetSpeed (s : State) : Host.Outcome State Fault Refusal :=
  command 0x40 [faultIfLatched s, notReadyUnlessInit s, badArgIf (!(arg0F32 s).isFinite)]
    (fun s => setSpeed s.env.time (arg0F32 s) s) s

end Sys2Proof.Machine
end

