-- ==== Sys2Proof/Machine/HostAccess.lean ====
section
/-! DEFINITION. The host access events and the passing of time (rules R121 to R123), with the execution of a command word
(rule R151). -/

namespace Sys2Proof.Machine

/-- What the bus answers to a host access (rules R103, R121). -/
def respond (data : Word) (error : Bool) (s : State) : State :=
  { s with env := { s.env with resp := { data := data, error := error } } }

/-- An illegal command word raises `CmdError(ILLEGAL)` (rule R158). -/
def illegalWord (w : Word) (s : State) : Host.Outcome State Fault Refusal :=
  .next (cmdError (opcField w) .illegal s)

/-- The execution of a command word (rule R151): decoded, refused with `ILLEGAL`, or run by its opcode's rule. A word
of format C decodes to a command only, so the arms of the events are never taken. -/
def runCommandWord (w : Word) (s : State) : Host.Outcome State Fault Refusal :=
  match decodeCommand w with
  | .error _ => illegalWord w s
  | .ok i =>
    match i with
    | .nop => execNop s
    | .bemfInit => execBemfInit s
    | .bemfReset => execBemfReset s
    | .bemfClearFlag => execBemfClearFlag s
    | .bemfGetStatus => execBemfGetStatus s
    | .schedStart => execSchedStart s
    | .schedCancel => execSchedCancel s
    | .schedIsActive => execSchedIsActive s
    | .rampStart d => execRampStart d s
    | .rampStop => execRampStop s
    | .rampStopSoft => execRampStopSoft s
    | .rampGetState => execRampGetState s
    | .invCommutate d step => execInvCommutate d step s
    | .invDisable => execInvDisable s
    | .invSetPhase phase st => execInvSetPhase phase st s
    | .setSpeed => execSetSpeed s
    | .motorStop => execMotorStop s
    | .setSlope => execSetSlope s
    | .faultClear => execFaultClear s
    | .pidReset => execPidReset s
    | .telemetry => execTelemetry s
    | .clearSticky => execClearSticky s
    | .reset | .adcSample _ _ _ _ _ _ | .fastTick | .lowTick | .timerExpire | .faultIn => illegalWord w s
    | .hostWrite _ _ _ | .hostRead _ _ | .timeAdvance => illegalWord w s

/-- `HOST_WRITE` (rule R122): an access error changes nothing but the bus response; a write to `CMD` executes the command
word; any other write is applied by rules R105 to R107. -/
def execHostWrite (off v : Word) (n : AccessWidth) (s : State) : Host.Outcome State Fault Refusal :=
  if accessError off n then .next (respond 0 true s)
  else if off = 0x004 then runCommandWord v (respond 0 false s)
  else .next (memWrite off.toNat v (respond 0 false s))

/-- `HOST_READ` (rule R121): an access error returns 0 with the error response. -/
def execHostRead (off : Word) (n : AccessWidth) (s : State) : Host.Outcome State Fault Refusal :=
  if accessError off n then .next (respond 0 true s)
  else .next (respond (memRead off.toNat s) false s)

/-- `TIME_ADVANCE` (rule R123): nothing but the timer drain, whose expiries are steps of their own. -/
def execTimeAdvance (s : State) : Host.Outcome State Fault Refusal := .next s

end Sys2Proof.Machine
end

