-- ==== Sys2Proof/Machine/Timer.lean ====
section
/-! DEFINITION. The one-shot timer's expiry and its callbacks (rules R252, R253). -/

namespace Sys2Proof.Machine

/-- `SCHED_USER_FIRED <- inc32(SCHED_USER_FIRED)` (rule R253). -/
def countUser (s : State) : State := { s with sched := { s.sched with userFired := inc32 s.sched.userFired } }

/-- A callback behind its guard: a false guard skips it (rule R253). -/
def guarded (guard : Bool) (callback : State → State) (s : State) : State := if guard then callback s else s

/-- `dispatch(tag, t)` (rule R253).  `T_NONE` is never dispatched. -/
def dispatch (tag : Tag) (t : Word) (s : State) : State :=
  match tag with
  | .none => s
  | .alignDone => guarded (decide (s.ctl.mode = .openLoop) && s.ctl.aligning) (alignDone t) s
  | .rampStep => guarded s.ramp.active (rampStep t) s
  | .handover => guarded (decide (s.ctl.mode = .openLoop) && s.comm.transition) (handoverFire t) s
  | .clComm => guarded (decide (s.ctl.mode = .closedLoop) && s.comm.armed) (clFire t) s
  | .user => countUser s

/-- `TIMER_EXPIRE` (rule R252), at the deadline: the slot is emptied, then the callback of its tag runs. -/
def execTimerExpire (s : State) : Host.Outcome State Fault Refusal :=
  if s.sched.active then
    if s.sched.tag = .none then .fault .expiryWithoutTag
    else .next (dispatch s.sched.tag s.sched.deadline (schedCancel s))
  else .fault .expiryWithoutEvent

end Sys2Proof.Machine
end

