-- ==== Sys2Proof/Machine/Dispatch.lean ====
section
/-! DEFINITION. What each instruction does: one arm per constructor. -/

namespace Sys2Proof.Machine

-- Every arm calls the meaning of its instruction.
def exec (i : Instr) (s : State) : Host.Outcome State Fault Refusal :=
  match i with
  | .nop => Sys2Proof.Machine.execNop s
  | .bemfInit => Sys2Proof.Machine.execBemfInit s
  | .bemfReset => Sys2Proof.Machine.execBemfReset s
  | .bemfClearFlag => Sys2Proof.Machine.execBemfClearFlag s
  | .bemfGetStatus => Sys2Proof.Machine.execBemfGetStatus s
  | .schedStart => Sys2Proof.Machine.execSchedStart s
  | .schedCancel => Sys2Proof.Machine.execSchedCancel s
  | .schedIsActive => Sys2Proof.Machine.execSchedIsActive s
  | .rampStart d => Sys2Proof.Machine.execRampStart d s
  | .rampStop => Sys2Proof.Machine.execRampStop s
  | .rampStopSoft => Sys2Proof.Machine.execRampStopSoft s
  | .rampGetState => Sys2Proof.Machine.execRampGetState s
  | .invCommutate d step => Sys2Proof.Machine.execInvCommutate d step s
  | .invDisable => Sys2Proof.Machine.execInvDisable s
  | .invSetPhase phase st => Sys2Proof.Machine.execInvSetPhase phase st s
  | .setSpeed => Sys2Proof.Machine.execSetSpeed s
  | .motorStop => Sys2Proof.Machine.execMotorStop s
  | .setSlope => Sys2Proof.Machine.execSetSlope s
  | .faultClear => Sys2Proof.Machine.execFaultClear s
  | .pidReset => Sys2Proof.Machine.execPidReset s
  | .telemetry => Sys2Proof.Machine.execTelemetry s
  | .clearSticky => Sys2Proof.Machine.execClearSticky s
  | .reset => Sys2Proof.Machine.execReset s
  | .adcSample ia ib ic va vb vc => Sys2Proof.Machine.execAdcSample ia ib ic va vb vc s
  | .fastTick => Sys2Proof.Machine.execFastTick s
  | .lowTick => Sys2Proof.Machine.execLowTick s
  | .timerExpire => Sys2Proof.Machine.execTimerExpire s
  | .faultIn => Sys2Proof.Machine.execFaultIn s
  | .hostWrite off v n => Sys2Proof.Machine.execHostWrite off v n s
  | .hostRead off n => Sys2Proof.Machine.execHostRead off n s
  | .timeAdvance => Sys2Proof.Machine.execTimeAdvance s

end Sys2Proof.Machine
end

