-- ==== Sys2Proof/Machine/Input.lean ====
section
/-! DEFINITION. Taking the next event: the order of events and the screening of what the environment supplies (rules R110
to R113, R163). -/

namespace Sys2Proof.Machine

/-- The timestamps the environment may supply next (rules R111, R540): not before the last one, and less than 2^31
microseconds after it. -/
def inOrder (t : Word) (s : State) : Bool := !s.env.started || atOrAfter t s.env.time

/-- The event an input record supplies, or why the core takes none from it (rules R111, R163). -/
def screenInput (r : InputRecord) (s : State) : Except Refusal Instr :=
  match decodeEvent r.code r.payload with
  | .error why => .error (.notAnEvent why)
  | .ok i => if inOrder r.t s then .ok i else .error .timeOrder

/-- The drain condition of rule R112 for an input event at time `t`.  `RESET` takes no expiry. -/
def expiryFirst (i : Instr) (t : Word) (s : State) : Bool := decide (i ≠ .reset) && expiryDue t s

/-- Taking an input event: it leaves the queue and its timestamp becomes the time. -/
def takeInput (t : Word) (rest : List InputRecord) (s : State) : State :=
  { s with env := { s.env with inputs := rest, time := t, started := true } }

/-- A timestamp at which nothing is due before the next input: the present time, or just before a deadline that is
due already.  For `State.withFetchWord` only. -/
def quietTime (s : State) : Word := if expiryDue s.env.time s then s.sched.deadline - 1 else s.env.time

/-- Supplying one input record as the first after start-up, so that no earlier timestamp orders it. -/
def supplyOnly (r : InputRecord) (s : State) : State :=
  { s with env := { s.env with inputs := [r], started := false } }

end Sys2Proof.Machine
end

