-- ==== Sys2Proof/Machine/Step.lean ====
section
/-! DEFINITION. One step: one event of the core (rules R110, R112, R114). -/

namespace Sys2Proof.Machine

/-- One step is one atomic event.  With no input supplied the core holds its state (rules R501, R531).  With an input at
time `t` at the head of the queue, a timer expiry that is due by `t` is the next event and the input waits; otherwise
the input is taken and is the next event (rule R112).  DESIGN CHOICE (log 4, safe): each expiry of the drain is a step of
its own. -/
def step (s : State) : Host.Outcome State Fault Refusal :=
  match s.env.inputs with
  | [] => .next s
  | r :: rest =>
    match screenInput r s with
    | .error why => .refused why
    | .ok i => if expiryFirst i r.t s then exec .timerExpire s else exec i (takeInput r.t rest s)

/-- `s` with the instruction of an opcode-table word supplied as the one pending input: a `HOST_WRITE` of a command word
to `CMD`, or the event itself, at a time at which no timer expiry comes before it. -/
def State.withFetchWord (s : State) (nbits w : Nat) : State :=
  supplyOnly { t := quietTime s, code := (tableRecord nbits w).1, payload := (tableRecord nbits w).2 } s

end Sys2Proof.Machine
end

