-- ==== Sys2Proof/Safety.lean ====
section
/-! DEFINITION. What counts as a safe state and a safe step, in the terms the statements use: the invariants of rules R44,
R64, R481 and R14, and what the events of rule R344's table are. -/

namespace Sys2Proof.Machine

/-! ### The invariants of rule R64 -/

/-- Item 2: `ALIGNING = 1` only in OpenLoop with `T_ALIGN_DONE` pending. -/
def AligningPending (s : State) : Prop :=
  s.ctl.aligning = true → s.ctl.mode = .openLoop ∧ s.sched.tag = .alignDone ∧ s.sched.active = true

/-- Item 3: `COMM_ARMED = 1` exactly when a closed-loop commutation is pending in ClosedLoop. -/
def ArmedPending (s : State) : Prop :=
  s.comm.armed = true ↔ s.ctl.mode = .closedLoop ∧ s.sched.active = true ∧ s.sched.tag = .clComm

/-- Item 4: `HANDOVER_ARMED = 1` only with `COMM_ARMED = 1`. -/
def HandoverArmed (s : State) : Prop := s.comm.handoverArmed = true → s.comm.armed = true

/-- Item 5: `TRANSITION_SCHEDULED = 1` only in OpenLoop, and always while a `T_HANDOVER` event is pending. -/
def TransitionOpen (s : State) : Prop :=
  (s.comm.transition = true → s.ctl.mode = .openLoop) ∧
    (s.sched.active = true ∧ s.sched.tag = .handover → s.comm.transition = true)

/-- Item 6: what is clear in Stopped. -/
def StoppedClear (s : State) : Prop :=
  s.ctl.mode = .stopped →
    s.comm.armed = false ∧ s.comm.transition = false ∧ s.comm.handoverArmed = false ∧
      s.speed.reversePending = false ∧ s.ctl.aligning = false ∧
      ¬(s.ramp.active = true ∧ s.ramp.owner = .stateMachine)

/-- Item 7: the tag is `T_NONE` exactly when the slot is empty. -/
def SlotTagged (s : State) : Prop := s.sched.tag = .none ↔ s.sched.active = false

/-- Item 8: `COMM_FLOAT` is the floating phase of the committed step and direction. -/
def FloatCommitted (s : State) : Prop := s.comm.float = floatOf s.comm.step s.comm.dir

/-- The invariants of rule R64, items 2 to 8.  Item 1, one pending event at most, is the one slot of `State`. -/
structure GuardInv (s : State) : Prop where
  aligning : AligningPending s
  armed : ArmedPending s
  handover : HandoverArmed s
  transition : TransitionOpen s
  stopped : StoppedClear s
  slot : SlotTagged s
  float : FloatCommitted s

/-- No ramp is active in ClosedLoop: the handover stopped it softly (rules R293, R349). -/
def LoopRampIdle (s : State) : Prop := s.ctl.mode = .closedLoop → s.ramp.active = false

/-- The configuration registers hold legal values (rule R44).  `RAMP_PROFILE` and `ALIGN_STEP` hold no others. -/
structure CfgLegal (c : Cfg) : Prop where
  freqStart : posFinite c.rampFreqStartHz = true
  freqEnd : posFinite c.rampFreqEndHz = true
  minStep : 1 ≤ c.rampMinStepUs ∧ c.rampMinStepUs ≤ 0x7FFFFFFF
  alignTime : c.alignTimeUs ≤ 0x7FFFFFFF
  commDelayMin : c.commDelayMinUs ≤ 0x7FFFFFFF
  commDelayMax : c.commDelayMaxUs ≤ 0x7FFFFFFF
  stallTimeout : c.clStallTimeoutUs ≤ 0x7FFFFFFF
  polePairs : c.polePairs ≠ 0
  slope : nonnegFinite c.speedSlopeRpm = true
  sample : posFinite c.pidTsS = true
  outMin : nonnegFinite c.pidOutMin = true

/-- A datum that is no NaN but the one NaN datum (rule R14). -/
def IsDatum (x : F32) : Prop := x.isNaN = true → x = F32.nan

/-- Every f32 element of the core holds a datum (rule R14). -/
structure DataCanonical (s : State) : Prop where
  prevA : IsDatum s.bemf.prev.a
  prevB : IsDatum s.bemf.prev.b
  prevC : IsDatum s.bemf.prev.c
  period : IsDatum s.bemf.period
  commDuty : IsDatum s.comm.duty
  invDuty : IsDatum s.inv.duty
  rampFreq : IsDatum s.ramp.freq
  rampDuty : IsDatum s.ramp.duty
  ctxDs : IsDatum s.ramp.ctx.ds
  ctxDe : IsDatum s.ramp.ctx.de
  ctxFs : IsDatum s.ramp.ctx.fs
  ctxFe : IsDatum s.ramp.ctx.fe
  ctxLogK : IsDatum s.ramp.ctx.logK
  hoDuty : IsDatum s.ho.duty
  speedCmd : IsDatum s.speed.cmd
  speedTarget : IsDatum s.speed.target
  speedMeas : IsDatum s.speed.meas
  revBuf : IsDatum s.speed.revBuf
  duty : IsDatum s.speed.duty
  pidInteg : IsDatum s.pid.integ
  pidPrevErr : IsDatum s.pid.prevErr
  pidLastOut : IsDatum s.pid.lastOut

/-! ### Terms of the statements -/

/-- The core state of two machines is the same: they differ at most in the ports. -/
def SameCore (s t : State) : Prop := t = { s with env := t.env }

/-- Every phase is Hi-Z. -/
def AllHiZ (s : State) : Prop := s.inv.ph = ⟨.hiZ, .hiZ, .hiZ⟩

/-- The scheduler slot is empty. -/
def SlotEmpty (s : State) : Prop := s.sched.active = false ∧ s.sched.tag = .none

/-- The command that an instruction executes: itself, or the command word a `HOST_WRITE` carries to `CMD`
(rule R151). -/
def commandOf (i : Instr) : Option Instr :=
  match i with
  | .hostWrite off v n => if off = 0x004 ∧ n = .four then (decodeCommand v).toOption else none
  | other => if other.isCommand then some other else none

/-- The diagnostic commands (rule R160). -/
def isDiagnostic (i : Instr) : Bool :=
  match i with
  | .bemfInit | .bemfReset | .schedStart | .schedCancel => true
  | .rampStart _ | .rampStop | .rampStopSoft => true
  | .invCommutate _ _ | .invDisable | .invSetPhase _ _ => true
  | _ => false

/-- The energising commands (rule R480, the row of `FAULT`). -/
def isEnergising (i : Instr) : Bool :=
  match i with
  | .setSpeed | .rampStart _ | .invCommutate _ _ | .invSetPhase _ _ => true
  | _ => false

/-- The result code the table of rule R480 and the order of rule R481 give a legal command. -/
def expectedCode (i : Instr) (s : State) : CmdErr :=
  if isDiagnostic i = true ∧ s.ctl.mode ≠ .stopped then .busy
  else if isEnergising i = true ∧ s.ctl.faultLatched = true then .fault
  else if i = .setSpeed ∧ s.bemf.initDone = false then .notReady
  else if (i = .schedStart ∧ 0x7FFFFFFF < s.iface.arg0.toNat) ∨
      (i = .setSlope ∧ (F32.ge (F32.ofWord s.iface.arg0) ⟨0⟩ = false ∨ (F32.ofWord s.iface.arg0).isInf = true)) ∨
      (i = .setSpeed ∧ ((F32.ofWord s.iface.arg0).isNaN = true ∨ (F32.ofWord s.iface.arg0).isInf = true)) then .badArg
  else .ok

/-- `CMD_STATUS` after a command word (rule R480); nothing else differs from `s`. -/
def withStatus (opc : BitVec 8) (code : CmdErr) (s : State) : State :=
  { s with iface := { s.iface with lastOpc := opc, lastErr := code } }

/-- The host bus answered `data` without an error; nothing else differs from `s`. -/
def answered (data : Word) (s : State) : State :=
  { s with env := { s.env with resp := { data := data, error := false } } }

/-- The output of hardware phase `h` under a pattern: high is PWM-active, low is forced-low, float is Hi-Z
(rule R333). -/
def patternOutput (m : PhaseMap) (k : StepIx) (d : Dir) (h : HPhase) : OutState :=
  if mapPhase m (highOf k d) = h then .pwmActive
  else if mapPhase m (lowOf k d) = h then .forcedLow
  else .hiZ

/-- The commutation context after a commutation (rule R333); the guard flags are kept. -/
def committedComm (k : StepIx) (duty : F32) (d : Dir) (t : Word) (c : Comm) : Comm :=
  { c with step := k, dir := d, float := floatOf k d, duty := duty, count := c.count + 1, lastComm := t }

/-- The inverter port after a commutation (rule R333). -/
def committedInv (m : PhaseMap) (k : StepIx) (duty : F32) (d : Dir) : Inv :=
  { ph := ⟨patternOutput m k d .a, patternOutput m k d .b, patternOutput m k d .c⟩, duty := duty }

/-- The ramp context with everything cleared but `RAMP_DONE_COUNT` (rule R292). -/
def clearedRamp (r : Ramp) : Ramp :=
  { active := false, owner := .host, dir := .cw, step := 0, elapsed := 0, lastDelay := 0, freq := ⟨0⟩,
    duty := ⟨0⟩, doneCount := r.doneCount,
    ctx := { ds := ⟨0⟩, de := ⟨0⟩, fs := ⟨0⟩, fe := ⟨0⟩, tMs := 0, prof := 0, logK := ⟨0⟩ } }

/-- Every element `safety_stop(cause)` writes, and every one it keeps (rule R356). -/
def stoppedBy (cause : StopCause) (s : State) : State :=
  { s with
    sched := { s.sched with active := false, tag := .none }
    inv := { s.inv with ph := ⟨.hiZ, .hiZ, .hiZ⟩ }
    ramp := clearedRamp s.ramp
    ctl := { s.ctl with mode := .stopped, aligning := false, stopCause := cause }
    comm := { s.comm with armed := false, transition := false, handoverArmed := false }
    ho := { s.ho with streak := 0 }
    speed := { s.speed with
      cmd := ⟨0⟩, target := ⟨0⟩, meas := ⟨0⟩, duty := ⟨0⟩, reversePending := false, revBuf := ⟨0⟩ } }

/-- Every element `start_run(t)` writes, and every one it keeps (rule R345). -/
def runStarted (t : Word) (s : State) : State :=
  { s with
    sched := { s.sched with active := true, deadline := t + s.cfg.alignTimeUs, tag := .alignDone }
    ramp := clearedRamp s.ramp
    pid := { integ := ⟨0⟩, prevErr := ⟨0⟩, lastOut := ⟨0⟩ }
    speed := { s.speed with meas := ⟨0⟩, target := ⟨0⟩ }
    ho := { s.ho with streak := 0 }
    ctl := { s.ctl with mode := .openLoop, aligning := true }
    comm := { committedComm s.cfg.alignStep (F32.ofWord s.cfg.alignDuty) s.speed.motorDir t s.comm with
      armed := false, transition := false, handoverArmed := false }
    inv := committedInv s.inst.phaseMap s.cfg.alignStep (F32.ofWord s.cfg.alignDuty) s.speed.motorDir }

/-- Every element `ramp_start(t, owner, dir)` writes, and every one it keeps (rule R281). -/
def rampStarted (t : Word) (owner : Owner) (dir : Dir) (s : State) : State :=
  let fs := F32.ofWord s.cfg.rampFreqStartHz
  let ds := F32.ofWord s.cfg.rampDutyStart
  { s with
    sched := { s.sched with active := true, deadline := t + rampDelay s.cfg fs, tag := .rampStep }
    ramp :=
      { active := true, owner := owner, dir := dir, step := 0, elapsed := 0, lastDelay := rampDelay s.cfg fs,
        freq := fs, duty := ds, doneCount := s.ramp.doneCount,
        ctx := { ds := ds, de := F32.ofWord s.cfg.rampDutyEnd, fs := fs, fe := F32.ofWord s.cfg.rampFreqEndHz,
                 tMs := s.cfg.rampTimeMs, prof := s.cfg.rampProfile, logK := F32.ofWord s.cfg.rampLogK } }
    comm := committedComm 0 ds dir t s.comm
    inv := committedInv s.inst.phaseMap 0 ds dir }

/-- Every element `bemf_reset()` writes, and the two it keeps (rule R219). -/
def bemfCleared (b : Bemf) : Bemf :=
  { initDone := b.initDone, prevOk := ⟨false, false, false⟩, prev := ⟨⟨0⟩, ⟨0⟩, ⟨0⟩⟩, baselineDone := false,
    lastZc := 0, periodSeeded := false, period := ⟨0⟩, validCnt := 0, invalidCnt := 0, valid := false,
    zcFlag := false, zcPhase := .a, zcCount := b.zcCount }

/-- Every element `handover_fire(t)` writes, and every one it keeps (rules R349, R350). -/
def handedOver (t : Word) (s : State) : State :=
  { s with
    ctl := { s.ctl with mode := .closedLoop }
    comm := { committedComm (s.ho.step + 1) s.ho.duty s.ho.dir t s.comm with
      armed := true, transition := false, handoverArmed := true }
    inv := committedInv s.inst.phaseMap (s.ho.step + 1) s.ho.duty s.ho.dir
    ramp := { s.ramp with active := false }
    speed := { s.speed with target := s.speed.meas, duty := s.ho.duty }
    sched := { s.sched with active := true, deadline := t + F32.u31sat s.bemf.period, tag := .clComm } }

/-- What the stall check leaves of a state (rule R343). -/
def stallChecked (t : Word) (s : State) : State :=
  if s.ctl.mode = .closedLoop ∧ s.cfg.clStallTimeoutUs ≠ 0 ∧
      s.cfg.clStallTimeoutUs.toNat < (t - s.comm.lastComm).toNat then stoppedBy .stallTimeout s
  else s

/-- The voltage of a control phase (rule R203). -/
def sampledVoltage (s : State) (p : CPhase) : F32 :=
  F32.mul (F32.ofNat (getH s.adc.v (mapPhase s.inst.phaseMap p)).toNat) (F32.ofWord s.cfg.bemfVScale)

/-- The signed BEMF of a phase against the virtual neutral (rules R204, R205). -/
def signedBemf (s : State) (p : CPhase) : F32 :=
  F32.sub (sampledVoltage s p)
    (F32.div (F32.add (F32.add (sampledVoltage s .a) (sampledVoltage s .b)) (sampledVoltage s .c)) F32.three)

/-- A new sample is processed: the monitor is initialised and a sample set waits (rule R202). -/
def SampleReady (s : State) : Prop := s.bemf.initDone = true ∧ s.adc.isNew = true

/-- The state after a sample is consumed and stored for the floating phase (rules R202, R206). -/
def sampleStored (s : State) : State :=
  { s with
    adc := { s.adc with isNew := false }
    bemf := { s.bemf with
      prev := setC s.bemf.prev s.comm.float (signedBemf s s.comm.float)
      prevOk := setC s.bemf.prevOk s.comm.float true } }

/-- The new sample and the previous one of the floating phase differ in sign (rule R207). -/
def SignChange (s : State) : Prop :=
  F32.lt (getC s.bemf.prev s.comm.float) ⟨0⟩ ≠ F32.lt (signedBemf s s.comm.float) ⟨0⟩

/-- Both magnitudes are below the noise floor (rule R208). -/
def BelowNoise (s : State) : Prop :=
  F32.lt (F32.abs (signedBemf s s.comm.float)) (F32.ofWord s.cfg.bemfAmpMin) = true ∧
    F32.lt (F32.abs (getC s.bemf.prev s.comm.float)) (F32.ofWord s.cfg.bemfAmpMin) = true

/-- A fast tick at this state processes a crossing that passes the amplitude filter (rules R206 to R209). -/
def CrossingPasses (s : State) : Prop :=
  SampleReady s ∧ getC s.bemf.prevOk s.comm.float = true ∧ SignChange s ∧ ¬BelowNoise s

/-- The mechanical speed a low tick works with (rules R400, R401): measured while BEMF is valid, else held. -/
def tickSpeed (s : State) : F32 :=
  if s.bemf.valid = true then
    F32.div (F32.mul (F32.div F32.million (F32.mul F32.six s.bemf.period)) F32.sixty)
      (F32.ofNat s.cfg.polePairs.toNat)
  else s.speed.meas

/-- A low tick completes a pending reversal (rule R400). -/
def ReversalDue (s : State) : Prop :=
  s.speed.reversePending = true ∧ s.ctl.mode ≠ .stopped ∧
    F32.lt (tickSpeed s) (F32.ofWord s.cfg.revThreshRpm) = true

/-- A latched fault holds the core in Stopped with every phase Hi-Z and no ramp active (rules R480, R481, R485). -/
def FaultOff (s : State) : Prop :=
  s.ctl.faultLatched = true → s.ctl.mode = .stopped ∧ AllHiZ s ∧ s.ramp.active = false

/-- The offsets of the read-write registers (rule R31). -/
def isWritable (off : Nat) : Bool :=
  decide (off % 4 = 0) &&
    (decide (0x010 ≤ off ∧ off ≤ 0x01C) || decide (0x040 ≤ off ∧ off ≤ 0x05C) ||
      decide (0x080 ≤ off ∧ off ≤ 0x09C) || decide (0x0C0 ≤ off ∧ off ≤ 0x0E8) ||
      decide (0x100 ≤ off ∧ off ≤ 0x128))

/-- Whether rule R44 lets a value into the register at an offset. -/
def isLegalValue (off : Nat) (v : Word) : Bool :=
  let x := F32.ofWord v
  if off ∈ [0x088, 0x08C, 0x118] then x.isFinite && F32.gt x ⟨0⟩
  else if off ∈ [0x104, 0x11C] then x.isFinite && F32.ge x ⟨0⟩
  else if off = 0x094 then decide (v.toNat ≤ 3)
  else if off = 0x09C then decide (1 ≤ v.toNat ∧ v.toNat ≤ 0x7FFFFFFF)
  else if off = 0x0C0 then decide (v.toNat ≤ 5)
  else if off ∈ [0x0C8, 0x0DC, 0x0E0, 0x0E8] then decide (v.toNat ≤ 0x7FFFFFFF)
  else if off = 0x100 then decide (v.toNat % 2 ^ 16 ≠ 0)
  else true

/-- The bits of a written word that the register at an offset keeps: [15:0] of the 16-bit registers (rule R40). -/
def keptBits (off : Nat) (v : Word) : Word := if off ∈ [0x050, 0x054, 0x0D0, 0x100] then v &&& 0xFFFF else v

/-- The opcodes of the table of rule R156. -/
def listedOpcodes : List Nat :=
  [0x00, 0x01, 0x02, 0x03, 0x04, 0x10, 0x11, 0x12, 0x20, 0x21, 0x22, 0x23, 0x30, 0x31, 0x32,
   0x40, 0x41, 0x42, 0x43, 0x44, 0x45, 0x46]

/-- A command word is illegal: clauses (a) to (e) of rule R158, on the bits of rule R150. -/
def IsIllegal (w : Word) : Prop :=
  let opc := w.toNat % 2 ^ 8
  let d := w.toNat / 2 ^ 8 % 2
  let step := w.toNat / 2 ^ 9 % 2 ^ 3
  let st := w.toNat / 2 ^ 12 % 2 ^ 3
  opc ∉ listedOpcodes ∨ w.toNat / 2 ^ 15 ≠ 0 ∨
    (d ≠ 0 ∧ opc ≠ 0x20 ∧ opc ≠ 0x30) ∨ (step ≠ 0 ∧ opc ≠ 0x30 ∧ opc ≠ 0x32) ∨ (st ≠ 0 ∧ opc ≠ 0x32) ∨
    (opc = 0x30 ∧ 5 < step) ∨ (opc = 0x32 ∧ (2 < step ∨ 5 < st))

/-- The registers of rule R31's table whose reset value is not 0, with that value. -/
def resetTable : List (Nat × Word) :=
  [(0x000, 0x4E440100), (0x040, 0x3F800000), (0x048, 100), (0x04C, 100000), (0x050, 4), (0x054, 3),
   (0x058, 0x3F400000), (0x05C, 0x3E800000), (0x080, 0x3E99999A), (0x084, 0x3F19999A), (0x088, 0x41C80000),
   (0x08C, 0x43FA0000), (0x090, 1000), (0x098, 0x40400000), (0x09C, 100), (0x0C4, 0x3E4CCCCD), (0x0C8, 100000),
   (0x0CC, 0x42480000), (0x0D0, 2), (0x0D4, 0x3E800000), (0x0D8, 0x3F000000), (0x0DC, 20), (0x0E0, 20000),
   (0x0E4, 10), (0x100, 7), (0x104, 0x3F800000), (0x108, 0x43480000), (0x10C, 0x3A800000), (0x110, 0x3B800000),
   (0x118, 0x3A83126F), (0x11C, 0x3D4CCCCD), (0x120, 0x3F733333), (0x124, 0xBF733333), (0x128, 0x3F733333)]

/-- The state after a crossing is timed as the baseline of the run (rule R210). -/
def baselineTaken (t : Word) (s : State) : State :=
  { s with bemf := { s.bemf with baselineDone := true, lastZc := t } }

/-- The state after a crossing is rejected for its period (rule R211). -/
def crossingRejected (t : Word) (s : State) : State :=
  let count : Half := BitVec.ofNat 16 (min (s.bemf.invalidCnt.toNat + 1) 0xFFFF)
  { s with bemf := { s.bemf with
      lastZc := if s.inst.zcTsOnInvalid = true then t else s.bemf.lastZc
      invalidCnt := count
      validCnt := 0
      valid := if s.cfg.bemfUnlockM.toNat ≤ count.toNat then false else s.bemf.valid } }

/-- The state after a crossing with elapsed time `e` is accepted on the committed floating phase (rules R209, R212 to
R215). -/
def crossingAccepted (t e : Word) (s : State) : State :=
  let count : Half := BitVec.ofNat 16 (min (s.bemf.validCnt.toNat + 1) 0xFFFF)
  let ef := F32.ofNat e.toNat
  { s with bemf := { s.bemf with
      lastZc := t
      invalidCnt := 0
      period :=
        if s.bemf.periodSeeded = true then
          F32.add (F32.mul (F32.ofWord s.cfg.bemfWOld) s.bemf.period) (F32.mul (F32.ofWord s.cfg.bemfWNew) ef)
        else ef
      periodSeeded := true
      validCnt := count
      valid := if s.cfg.bemfLockN.toNat ≤ count.toNat then true else s.bemf.valid
      zcPhase := s.comm.float
      zcFlag := true
      zcCount := s.bemf.zcCount + 1 } }

/-- The elapsed time is outside the inclusive period bounds (rule R209). -/
def OutOfBounds (c : Cfg) (e : Word) : Prop :=
  e.toNat < c.bemfPeriodMinUs.toNat ∨ c.bemfPeriodMaxUs.toNat < e.toNat

/-- The zero-crossing flag is consumed (rule R341). -/
def flagConsumed (s : State) : State := { s with bemf := { s.bemf with zcFlag := false } }

/-- OpenLoop's ramping phase (rules R339, R341). -/
def RampingPhase (s : State) : Prop :=
  s.ctl.aligning = false ∧ s.ramp.active = true ∧ s.ramp.owner = .stateMachine ∧ s.comm.transition = false

/-- A crossing that counts toward the handover (rules R342, R347). -/
def Qualifying (s : State) : Prop :=
  s.bemf.valid = true ∧
    F32.gt (F32.div F32.million (F32.mul F32.six s.bemf.period)) (F32.ofWord s.cfg.clEnterSpeedHz) = true ∧
    s.bemf.zcPhase = s.comm.float

/-- The capture of a planned handover and its guard flag (rule R348). -/
def handoverCaptured (streak : Half) (s : State) : State :=
  { s with
    ho := { step := s.ramp.step, dir := s.ramp.dir,
            duty := F32.maxf s.ramp.duty (F32.ofWord s.cfg.clDutyFloor), streak := streak }
    comm := { s.comm with transition := true } }

/-- The registers of rule R31 that hold one element each, with that element: offset and 32-bit value read.  `ID`, `CMD`,
`TIME_US` and the field registers of rules R32, R35, R52, R54, R56 to R59 are apart. -/
def plainRegisters : List (Nat × (State → Word)) :=
  [(0x010, fun s => s.iface.arg0), (0x014, fun s => s.iface.arg1), (0x018, fun s => s.iface.arg2),
   (0x01C, fun s => s.iface.arg3),
   (0x040, fun s => s.cfg.bemfVScale), (0x044, fun s => s.cfg.bemfAmpMin), (0x048, fun s => s.cfg.bemfPeriodMinUs),
   (0x04C, fun s => s.cfg.bemfPeriodMaxUs), (0x050, fun s => s.cfg.bemfLockN.setWidth 32),
   (0x054, fun s => s.cfg.bemfUnlockM.setWidth 32), (0x058, fun s => s.cfg.bemfWOld), (0x05C, fun s => s.cfg.bemfWNew),
   (0x080, fun s => s.cfg.rampDutyStart), (0x084, fun s => s.cfg.rampDutyEnd), (0x088, fun s => s.cfg.rampFreqStartHz),
   (0x08C, fun s => s.cfg.rampFreqEndHz), (0x090, fun s => s.cfg.rampTimeMs),
   (0x094, fun s => s.cfg.rampProfile.setWidth 32), (0x098, fun s => s.cfg.rampLogK),
   (0x09C, fun s => s.cfg.rampMinStepUs),
   (0x0C0, fun s => BitVec.ofNat 32 s.cfg.alignStep.val), (0x0C4, fun s => s.cfg.alignDuty),
   (0x0C8, fun s => s.cfg.alignTimeUs), (0x0CC, fun s => s.cfg.clEnterSpeedHz),
   (0x0D0, fun s => s.cfg.clStreakMin.setWidth 32), (0x0D4, fun s => s.cfg.clDutyFloor),
   (0x0D8, fun s => s.cfg.leadFactor), (0x0DC, fun s => s.cfg.commDelayMinUs), (0x0E0, fun s => s.cfg.commDelayMaxUs),
   (0x0E4, fun s => s.cfg.schedMinUs), (0x0E8, fun s => s.cfg.clStallTimeoutUs),
   (0x100, fun s => s.cfg.polePairs.setWidth 32), (0x104, fun s => s.cfg.speedSlopeRpm),
   (0x108, fun s => s.cfg.revThreshRpm), (0x10C, fun s => s.cfg.pidKp), (0x110, fun s => s.cfg.pidKi),
   (0x114, fun s => s.cfg.pidKd), (0x118, fun s => s.cfg.pidTsS), (0x11C, fun s => s.cfg.pidOutMin),
   (0x120, fun s => s.cfg.pidOutMax), (0x124, fun s => s.cfg.pidIMin), (0x128, fun s => s.cfg.pidIMax)] ++
  [(0x200, fun s => s.bemf.lastZc), (0x204, fun s => bits s.inst s.bemf.period),
   (0x210, fun s => bits s.inst s.bemf.prev.a), (0x214, fun s => bits s.inst s.bemf.prev.b),
   (0x218, fun s => bits s.inst s.bemf.prev.c), (0x21C, fun s => s.bemf.zcCount),
   (0x224, fun s => bits s.inst s.comm.duty), (0x228, fun s => s.comm.count), (0x22C, fun s => s.comm.lastComm),
   (0x234, fun s => bits s.inst s.inv.duty), (0x244, fun s => s.sched.deadline), (0x248, fun s => s.sched.userFired),
   (0x254, fun s => s.ramp.elapsed), (0x258, fun s => s.ramp.lastDelay), (0x25C, fun s => bits s.inst s.ramp.freq),
   (0x260, fun s => bits s.inst s.ramp.duty), (0x264, fun s => s.ramp.doneCount),
   (0x268, fun s => bits s.inst s.ramp.ctx.ds), (0x26C, fun s => bits s.inst s.ramp.ctx.de),
   (0x270, fun s => bits s.inst s.ramp.ctx.fs), (0x274, fun s => bits s.inst s.ramp.ctx.fe),
   (0x278, fun s => s.ramp.ctx.tMs), (0x27C, fun s => s.ramp.ctx.prof.setWidth 32),
   (0x280, fun s => bits s.inst s.ramp.ctx.logK), (0x294, fun s => bits s.inst s.ho.duty)] ++
  [(0x2A0, fun s => bits s.inst s.speed.cmd), (0x2A4, fun s => bits s.inst s.speed.target),
   (0x2A8, fun s => bits s.inst s.speed.meas), (0x2AC, fun s => bits s.inst s.speed.revBuf),
   (0x2B0, fun s => bits s.inst s.speed.duty), (0x2C0, fun s => bits s.inst s.pid.integ),
   (0x2C4, fun s => bits s.inst s.pid.prevErr), (0x2C8, fun s => bits s.inst s.pid.lastOut),
   (0x2E0, fun s => s.adc.i.a.setWidth 32), (0x2E4, fun s => s.adc.i.b.setWidth 32),
   (0x2E8, fun s => s.adc.i.c.setWidth 32), (0x2EC, fun s => s.adc.v.a.setWidth 32),
   (0x2F0, fun s => s.adc.v.b.setWidth 32), (0x2F4, fun s => s.adc.v.c.setWidth 32)]

/-! ### Exact values of binary32 data (rule R14) -/

/-- The exact magnitude of a finite datum, from its exponent and fraction fields. -/
def magnitudeValue (x : F32) : ℚ :=
  let e : ℕ := x.pat.toNat / 2 ^ 23 % 2 ^ 8
  let f : ℚ := (x.pat.toNat % 2 ^ 23 : ℕ)
  if e = 0 then f / 2 ^ 149 else (2 ^ 23 + f) * 2 ^ e / 2 ^ 150

/-- The exact value of a finite datum. -/
def signedValue (x : F32) : ℚ := if x.sign = true then -magnitudeValue x else magnitudeValue x

/-- `r` is the binary32 result, with a sign, of an exact magnitude `v`: the nearest finite datum, of two equally near the
one with an even pattern; and infinity from half a unit above the greatest finite datum on (rule R14). -/
def IsRounding (v : ℚ) (neg : Bool) (r : F32) : Prop :=
  r.sign = neg ∧
    if v < 2 ^ 128 - 2 ^ 103 then
      r.isFinite = true ∧ ∀ y : F32, y.isFinite = true → magnitudeValue y ≠ magnitudeValue r →
        |magnitudeValue r - v| < |magnitudeValue y - v| ∨
          (|magnitudeValue r - v| = |magnitudeValue y - v| ∧ r.pat.toNat % 2 = 0)
    else r.isInf = true

/-- The events that end a run through `safety_stop` or start one through `start_run`, and when they do (rules R343, R345,
R354, R356, R403, R410, R451, R485). -/
def EndsOrStartsRun (i : Instr) (s t : State) : Prop :=
  (commandOf i = some .setSpeed ∧ s.ctl.mode = .stopped ∧ t.ctl.mode = .openLoop ∧ t.ctl.aligning = true) ∨
    commandOf i = some .motorStop ∨ i = .faultIn ∨ (i = .lowTick ∧ ReversalDue s) ∨
    (i = .fastTick ∧ s.ctl.mode = .closedLoop ∧ s.cfg.clStallTimeoutUs ≠ 0 ∧
      s.cfg.clStallTimeoutUs.toNat < (s.env.time - s.comm.lastComm).toNat) ∨
    (i = .timerExpire ∧ s.sched.tag = .rampStep ∧ s.ramp.active = true ∧ s.ramp.owner = .stateMachine ∧
      s.ramp.ctx.tMs.toNat * 1000 ≤ min (s.ramp.elapsed.toNat + s.ramp.lastDelay.toNat) 0xFFFFFFFF)

/-- An outcome that is a next state. -/
def isNext : Host.Outcome State Fault Refusal → Bool
  | .next _ => true
  | .fault _ => false
  | .refused _ => false

end Sys2Proof.Machine
end

