-- ==== Sys2Proof/Certificates/Slice0/Obligations.lean ====
section
/-! DEFINITION. The statements for the provers.  Each says which rule of spec/ it formalises. -/

open Sys2Proof Sys2Proof.Machine

/-! ### Encoding -/

/-- Rules R150 to R158, R161, R162: decoding an encoded instruction gives it back, at every operand the encoding
admits.  `TIMER_EXPIRE` is internal and no record supplies it (rule R163). -/
def Obligations.EncodingRoundTrips : Prop :=
  (∀ i : Instr, i.wellFormed = true → i ≠ .timerExpire → decodeAs i.isCommand (encode i) = some i) ∧
    decodeAs false (encode .timerExpire) = none

/-- Rules R150 to R158: a command word decodes to a well-formed command only, and that command encodes to it. -/
def Obligations.CommandWordsHaveOneMeaning : Prop :=
  ∀ (w : Word) (i : Instr), decodeCommand w = .ok i →
    i.isCommand = true ∧ i.wellFormed = true ∧ encode i = [w]

/-- Rules R161 to R163: an input record decodes to an input event only, and that event encodes to it. -/
def Obligations.EventRecordsHaveOneMeaning : Prop :=
  ∀ (code : Word) (payload : List Word) (i : Instr), decodeEvent code payload = .ok i →
    i.isInput = true ∧ encode i = code :: payload

/-- Rule R158: an illegal word written to `CMD` raises `CmdError(ILLEGAL)` and has no other effect; a word that meets no
clause of the rule decodes. -/
def Obligations.IllegalWordsAreRefused : Prop :=
  (∀ (w : Word) (s : State), IsIllegal w →
    exec (.hostWrite 0x004 w .four) s = .next (withStatus (w.extractLsb' 0 8) .illegal (answered 0 s))) ∧
    ∀ w : Word, ¬IsIllegal w → ∃ i, decodeCommand w = .ok i

/-- Words written out from the field tables of rules R150, R156 and R161, and what they decode to. -/
def Obligations.WrittenWordsDecode : Prop :=
  decodeCommand 0x00000002 = .ok .bemfReset ∧
    decodeCommand 0x00000010 = .ok .schedStart ∧
    decodeCommand 0x00000120 = .ok (.rampStart .ccw) ∧
    decodeCommand 0x00000530 = .ok (.invCommutate .ccw 2) ∧
    decodeCommand 0x00004232 = .ok (.invSetPhase 1 4) ∧
    decodeCommand 0x00000040 = .ok .setSpeed ∧
    decodeCommand 0x00000045 = .ok .telemetry ∧
    decodeCommand 0x00000C30 = .error .stepRange ∧
    decodeCommand 0x00000632 = .error .phaseRange ∧
    decodeEvent 0x1 [1, 2, 3, 10, 20, 30] = .ok (.adcSample 1 2 3 10 20 30) ∧
    decodeEvent 0x6 [0x104, 0x42480000] = .ok (.hostWrite 0x104 0x42480000 .four) ∧
    decodeEvent 0x9 [] = .error .reservedCode

/-! ### Steps -/

/-- Rule R112: a step takes the expiry that is due by the next input's timestamp, as an event of its own (the model's
step granularity, log 4), and otherwise runs the decoded input; `RESET` takes no expiry.  An input whose timestamp is
out of order is refused (rule R540, log 6). -/
def Obligations.StepRunsNextEvent : Prop :=
  ∀ (s : State) (r : InputRecord) (rest : List InputRecord) (i : Instr),
    s.env.inputs = r :: rest → decodeEvent r.code r.payload = .ok i →
    ((s.env.started = true → (r.t - s.env.time).toNat < 2 ^ 31) →
      step s =
        if i ≠ .reset ∧ s.sched.active = true ∧ (r.t - s.sched.deadline).toNat < 2 ^ 31 then exec .timerExpire s
        else exec i { s with env := { s.env with inputs := rest, time := r.t, started := true } }) ∧
    (s.env.started = true ∧ 2 ^ 31 ≤ (r.t - s.env.time).toNat → step s = .refused .timeOrder)

/-- Rules R122, R151: a write to `CMD` executes the command the word decodes to, within the write event. -/
def Obligations.CommandWriteRunsCommand : Prop :=
  ∀ (w : Word) (i : Instr) (s : State), decodeCommand w = .ok i →
    exec (.hostWrite 0x004 w .four) s = exec i (answered 0 s)

/-- Rule R163: a record with a reserved code, or with the internal code 4, is refused. -/
def Obligations.ReservedInputsAreRefused : Prop :=
  ∀ (s : State) (r : InputRecord) (rest : List InputRecord), s.env.inputs = r :: rest →
    (r.code = 0x4 ∨ (0x9 ≤ r.code.toNat ∧ r.code.toNat ≤ 0xF)) → ∃ why, step s = .refused (.notAnEvent why)

/-- Rules R123, R501, with the model's own choices: with no input supplied the core holds its state (log 5), and
`TIME_ADVANCE` itself changes nothing, because each expiry of the drain it does is a step of its own (log 4). -/
def Obligations.TimeAloneChangesNothing : Prop :=
  (∀ s : State, s.env.inputs = [] → step s = .next s) ∧ ∀ s : State, exec .timeAdvance s = .next s

/-! ### Command errors -/

/-- Rule R160: a diagnostic command is refused with `BUSY` outside Stopped, changing nothing else, and no other command
reports `BUSY`. -/
def Obligations.DiagnosticCommandsNeedStopped : Prop :=
  (∀ (i : Instr) (w : Word) (s : State), i.wellFormed = true → isDiagnostic i = true → encode i = [w] →
    s.ctl.mode ≠ .stopped → exec i s = .next (withStatus (w.extractLsb' 0 8) .busy s)) ∧
    ∀ (i : Instr) (s t : State), i.isCommand = true → isDiagnostic i = false → exec i s = .next t →
      t.iface.lastErr ≠ .busy

/-- Rules R480, R481: every word written to `CMD` completes and reports its opcode; an illegal word reports `ILLEGAL`; a
legal one reports the first error that applies, in the order of rule R481, and a refused word changes `CMD_STATUS` and
nothing else. -/
def Obligations.CommandErrorsFollowTheTable : Prop :=
  ∀ (w : Word) (s : State), ∃ t, exec (.hostWrite 0x004 w .four) s = .next t ∧
    t.iface.lastOpc = w.extractLsb' 0 8 ∧
    (∀ why, decodeCommand w = .error why → t = withStatus (w.extractLsb' 0 8) .illegal (answered 0 s)) ∧
    ∀ i, decodeCommand w = .ok i →
      t.iface.lastErr = expectedCode i s ∧
        (expectedCode i s ≠ .ok → t = withStatus (w.extractLsb' 0 8) (expectedCode i s) (answered 0 s))

/-! ### What each command does -/

/-- Rules R221, R407 to R409, R450, R452, R454: the commands that write one flag, the PID state, the slope, or nothing.
Everything else is unchanged. -/
def Obligations.FlagCommandsComplete : Prop :=
  ∀ s : State,
    exec .nop s = .next (withStatus 0x00 .ok s) ∧
    exec .bemfClearFlag s = .next (withStatus 0x03 .ok { s with bemf := { s.bemf with zcFlag := false } }) ∧
    exec .faultClear s = .next (withStatus 0x43 .ok { s with ctl := { s.ctl with faultLatched := false } }) ∧
    exec .clearSticky s = .next (withStatus 0x46 .ok { s with adc := { s.adc with overrun := false } }) ∧
    exec .pidReset s =
      .next (withStatus 0x44 .ok { s with pid := { integ := ⟨0⟩, prevErr := ⟨0⟩, lastOut := ⟨0⟩ } }) ∧
    (F32.ge (F32.ofWord s.iface.arg0) ⟨0⟩ = true → (F32.ofWord s.iface.arg0).isInf = false →
      exec .setSlope s =
        .next (withStatus 0x42 .ok { s with cfg := { s.cfg with speedSlopeRpm := s.iface.arg0 } }))

/-- Rules R219, R220, R223: in Stopped, `BEMF_RESET` clears the detection state and keeps `BEMF_INIT_DONE` and
`ZC_COUNT`; `BEMF_INIT` does the same and sets `BEMF_INIT_DONE`. -/
def Obligations.BemfInitAndResetComplete : Prop :=
  ∀ s : State, s.ctl.mode = .stopped →
    exec .bemfInit s =
      .next (withStatus 0x01 .ok { s with bemf := { bemfCleared s.bemf with initDone := true } }) ∧
    exec .bemfReset s = .next (withStatus 0x02 .ok { s with bemf := bemfCleared s.bemf })

/-- Rules R222, R258, R295, R453: the snapshot commands write the operand registers and `CMD_STATUS` only, in every
mode, with the fields where the rules place them. -/
def Obligations.SnapshotCommandsComplete : Prop :=
  ∀ s : State,
    (∃ a0 a3 : Word,
      exec .bemfGetStatus s = .next (withStatus 0x04 .ok { s with iface := { s.iface with
        arg0 := a0, arg1 := bits s.inst s.bemf.period, arg2 := s.bemf.lastZc, arg3 := a3 } }) ∧
      a0.toNat = s.bemf.zcFlag.toNat + 2 * s.bemf.valid.toNat + 4 * (cphaseCode s.bemf.zcPhase).toNat ∧
      a3.toNat = s.bemf.validCnt.toNat + 2 ^ 16 * s.bemf.invalidCnt.toNat) ∧
    (∃ a0 a2 : Word,
      exec .schedIsActive s = .next (withStatus 0x12 .ok { s with iface := { s.iface with
        arg0 := a0, arg1 := s.sched.deadline, arg2 := a2 } }) ∧
      a0.toNat = s.sched.active.toNat ∧ a2.toNat = (tagCode s.sched.tag).toNat) ∧
    (∃ a0 a2 a3 : Word,
      exec .rampGetState s = .next (withStatus 0x23 .ok { s with iface := { s.iface with
        arg0 := a0, arg1 := bits s.inst s.ramp.duty, arg2 := a2, arg3 := a3 } }) ∧
      a0.toNat = s.ramp.step.val ∧ a2.toNat = (dirBit s.ramp.dir).toNat ∧ a3.toNat = s.ramp.active.toNat) ∧
    ∃ a0 : Word,
      exec .telemetry s = .next (withStatus 0x45 .ok { s with iface := { s.iface with
        arg0 := a0, arg1 := bits s.inst s.speed.meas, arg2 := s.bemf.zcCount, arg3 := s.comm.count } }) ∧
      a0.toNat = (modeCode s.ctl.mode).toNat + 2 ^ 4 * s.comm.step.val + 2 ^ 8 * (dirBit s.comm.dir).toNat

/-- Rules R104, R222, R258, R295, R453: a snapshot command leaves every byte of the window alone but those of
`CMD_STATUS` and of the operand registers it overwrites (`SCHED_IS_ACTIVE` keeps `ARG3`), and a read leaves every byte
alone. -/
def Obligations.SnapshotsLeaveEveryOtherByte : Prop :=
  (∀ (i : Instr) (s t : State) (a : Nat), i ∈ [.bemfGetStatus, .schedIsActive, .rampGetState, .telemetry] →
    exec i s = .next t → ¬(0x008 ≤ a ∧ a < 0x00C) →
    ¬(0x010 ≤ a ∧ a < (if i = .schedIsActive then 0x01C else 0x020)) → windowByte t a = windowByte s a) ∧
    ∀ (off : Word) (n : AccessWidth) (s t : State) (a : Nat), exec (.hostRead off n) s = .next t →
      windowByte t a = windowByte s a

/-- Rules R250, R251, R255, R256: in Stopped, `SCHED_START` with a delay of at most 0x7FFFFFFF arms the slot with
`T_USER`, replacing what is pending, and `SCHED_CANCEL` empties it and keeps its deadline. -/
def Obligations.SchedulerCommandsComplete : Prop :=
  ∀ s : State, s.ctl.mode = .stopped →
    (s.iface.arg0.toNat ≤ 0x7FFFFFFF →
      exec .schedStart s = .next (withStatus 0x10 .ok { s with sched := { s.sched with
        active := true, deadline := s.env.time + s.iface.arg0, tag := .user } })) ∧
    exec .schedCancel s =
      .next (withStatus 0x11 .ok { s with sched := { s.sched with active := false, tag := .none } })

/-- Rules R281, R292, R293, R296 to R298: in Stopped, `RAMP_START` starts a host ramp, `RAMP_STOP` empties the slot,
disables the inverter and clears the ramp, and `RAMP_STOP_SOFT` empties the slot and deactivates the ramp. -/
def Obligations.RampCommandsComplete : Prop :=
  ∀ s : State, s.ctl.mode = .stopped →
    (s.ctl.faultLatched = false → ∀ d : Dir,
      exec (.rampStart d) s = .next (withStatus 0x20 .ok (rampStarted s.env.time .host d s))) ∧
    exec .rampStop s = .next (withStatus 0x21 .ok { s with
      sched := { s.sched with active := false, tag := .none }
      inv := { s.inv with ph := ⟨.hiZ, .hiZ, .hiZ⟩ }
      ramp := clearedRamp s.ramp }) ∧
    exec .rampStopSoft s = .next (withStatus 0x22 .ok { s with
      sched := { s.sched with active := false, tag := .none }
      ramp := { s.ramp with active := false } })

/-- Rules R333 to R338: in Stopped, `INV_COMMUTATE` applies the pattern of its step and direction with the duty in
`ARG0`, `INV_DISABLE` floats every phase, and `INV_SET_PHASE` sets the output of one hardware phase, read here through
the fields of `INV_STATE`. -/
def Obligations.InverterCommandsComplete : Prop :=
  ∀ s : State, s.ctl.mode = .stopped →
    exec .invDisable s =
      .next (withStatus 0x31 .ok { s with inv := { s.inv with ph := ⟨.hiZ, .hiZ, .hiZ⟩ } }) ∧
    (s.ctl.faultLatched = false →
      (∀ (d : Dir) (k : StepIx),
        exec (.invCommutate d (BitVec.ofNat 3 k.val)) s = .next (withStatus 0x30 .ok { s with
          inv := committedInv s.inst.phaseMap k (F32.ofWord s.iface.arg0) d
          comm := committedComm k (F32.ofWord s.iface.arg0) d s.env.time s.comm })) ∧
      ∀ p st : BitVec 3, p.toNat ≤ 2 → st.toNat ≤ 5 → ∃ ph : Tri OutState,
        exec (.invSetPhase p st) s = .next (withStatus 0x32 .ok { s with inv := { s.inv with ph := ph } }) ∧
        (invStateWord { s.inv with ph := ph }).toNat / 16 ^ p.toNat % 16 = st.toNat ∧
        ∀ q, q ≤ 2 → q ≠ p.toNat →
          (invStateWord { s.inv with ph := ph }).toNat / 16 ^ q % 16 = (invStateWord s.inv).toNat / 16 ^ q % 16)

/-- Rules R345, R410: an accepted `SET_SPEED` starts a run from Stopped for a nonzero magnitude, and otherwise changes the
commanded speed and the reversal state only. -/
def Obligations.SetSpeedCompletes : Prop :=
  ∀ s : State, s.ctl.faultLatched = false → s.bemf.initDone = true → (F32.ofWord s.iface.arg0).isFinite = true →
    let x := F32.ofWord s.iface.arg0
    let mag := F32.abs x
    let d : Dir := if F32.lt x ⟨0⟩ = true then .ccw else .cw
    exec .setSpeed s = .next (withStatus 0x40 .ok (
      if s.ctl.mode = .stopped then
        if F32.eq mag ⟨0⟩ = true then { s with speed := { s.speed with cmd := ⟨0⟩ } }
        else runStarted s.env.time { s with speed := { s.speed with motorDir := d, cmd := mag } }
      else if F32.eq mag ⟨0⟩ = true then
        { s with speed := { s.speed with cmd := ⟨0⟩, reversePending := false, revBuf := ⟨0⟩ } }
      else if d = s.speed.motorDir then
        { s with speed := { s.speed with cmd := mag, reversePending := false, revBuf := ⟨0⟩ } }
      else { s with speed := { s.speed with cmd := ⟨0⟩, revBuf := mag, reversePending := true } }))

/-- Rules R356, R451, R485: `MOTOR_STOP` and `FAULT_IN` make the safety stop in every mode, with their causes, and
`FAULT_IN` latches the fault. -/
def Obligations.StopEventsComplete : Prop :=
  ∀ s : State,
    exec .motorStop s = .next (withStatus 0x41 .ok (stoppedBy .stopCommand s)) ∧
    exec .faultIn s = .next { stoppedBy .hardwareFault s with
      ctl := { mode := .stopped, aligning := false, stopCause := .hardwareFault, faultLatched := true } }

/-! ### What each event does -/

/-- Rules R31, R63, R530: after `RESET` every register reads its reset value, whatever ran before.  That the instance
parameters (log 1) and the ports (the time port, the started flag, the bus response and the input list: logs 5, 6 and 9)
are kept is the model's choice; `TIME_US` reads the time port. -/
def Obligations.ResetRestoresEveryElement : Prop :=
  ∀ s : State, ∃ t, exec .reset s = .next t ∧ t.inst = s.inst ∧ t.env = s.env ∧
    ∀ off, off ≠ 0x024 → memRead off t = ((resetTable.lookup off).getD 0)

/-- Rules R200, R201: `ADC_SAMPLE` writes the whole set, raises `ADC_NEW`, and records an overrun exactly when a set was
waiting. -/
def Obligations.AdcSampleStores : Prop :=
  ∀ (ia ib ic va vb vc : Half) (s : State),
    exec (.adcSample ia ib ic va vb vc) s = .next { s with adc :=
      { i := ⟨ia, ib, ic⟩, v := ⟨va, vb, vc⟩, isNew := true,
        overrun := if s.adc.isNew = true then true else s.adc.overrun } }

/-- Rules R202 to R208: without a ready sample BEMF processing changes nothing; with one, it is consumed and stored, and
nothing else changes unless a crossing passes.  In Stopped this is all that a fast tick does. -/
def Obligations.FastTickProcessesSample : Prop :=
  ∀ s : State,
    (¬SampleReady s →
      bemfProcess s.comm.float s.env.time s = s ∧
        (s.ctl.mode = .stopped → exec .fastTick s = .next s)) ∧
    (SampleReady s → ¬CrossingPasses s →
      bemfProcess s.comm.float s.env.time s = sampleStored s ∧
        (s.ctl.mode = .stopped → exec .fastTick s = .next (sampleStored s)))

/-- Rules R209 to R215: a crossing that passes is the baseline, a period rejection, or an acceptance.  In Stopped this is
all that a fast tick does. -/
def Obligations.FastTickTimesCrossing : Prop :=
  ∀ s : State, CrossingPasses s →
    let t := s.env.time
    let e := t - s.bemf.lastZc
    ∃ u, bemfProcess s.comm.float t s = u ∧ (s.ctl.mode = .stopped → exec .fastTick s = .next u) ∧
      (s.bemf.baselineDone = false → u = baselineTaken t (sampleStored s)) ∧
      (s.bemf.baselineDone = true → OutOfBounds s.cfg e → u = crossingRejected t (sampleStored s)) ∧
      (s.bemf.baselineDone = true → ¬OutOfBounds s.cfg e → u = crossingAccepted t e (sampleStored s))

/-- Rules R340, R341, R343, R351: after BEMF processing, a fast tick in OpenLoop outside the ramping phase and in
ClosedLoop consumes the flag, in ClosedLoop arms the next commutation on a matching crossing while none is armed, and
ends with the stall check. -/
def Obligations.FastTickRunsStateMachine : Prop :=
  ∀ s : State,
    let t := s.env.time
    let u := bemfProcess s.comm.float t s
    (s.ctl.mode = .stopped → exec .fastTick s = .next u) ∧
    (u.bemf.zcFlag = false → exec .fastTick s = .next (stallChecked t u)) ∧
    (s.ctl.mode = .openLoop → u.bemf.zcFlag = true → ¬RampingPhase s → exec .fastTick s = .next (flagConsumed u)) ∧
    (s.ctl.mode = .closedLoop → u.bemf.zcFlag = true →
      ¬(u.bemf.zcPhase = s.comm.float ∧ s.comm.armed = false) →
      exec .fastTick s = .next (stallChecked t (flagConsumed u))) ∧
    (s.ctl.mode = .closedLoop → u.bemf.zcFlag = true → u.bemf.zcPhase = s.comm.float → s.comm.armed = false →
      exec .fastTick s = .next (stallChecked t { flagConsumed u with
        sched := { u.sched with active := true, deadline := t + commDelay u.cfg u.bemf.period, tag := .clComm }
        comm := { u.comm with armed := true } }))

/-- Rules R341, R342, R347 to R350: in the ramping phase a consumed crossing resets the streak, raises it, or plans the
handover, which fires at once or is scheduled at the lead delay less the crossing's age. -/
def Obligations.FastTickPlansHandover : Prop :=
  ∀ s : State,
    let t := s.env.time
    let u := bemfProcess s.comm.float t s
    let n : Half := BitVec.ofNat 16 (min (s.ho.streak.toNat + 1) 0xFFFF)
    let captured := handoverCaptured n (flagConsumed u)
    let delay := (commDelay s.cfg u.bemf.period).toNat
    let age := (t - u.bemf.lastZc).toNat
    s.ctl.mode = .openLoop → RampingPhase s → u.bemf.zcFlag = true →
    (¬Qualifying u → exec .fastTick s = .next { flagConsumed u with ho := { u.ho with streak := 0 } }) ∧
    (Qualifying u → n.toNat < s.cfg.clStreakMin.toNat →
      exec .fastTick s = .next { flagConsumed u with ho := { u.ho with streak := n } }) ∧
    (Qualifying u → s.cfg.clStreakMin.toNat ≤ n.toNat →
      (delay ≤ age ∨ delay - age < s.cfg.schedMinUs.toNat → exec .fastTick s = .next (handedOver t captured)) ∧
      (age < delay → s.cfg.schedMinUs.toNat ≤ delay - age →
        exec .fastTick s = .next { captured with
          sched := { captured.sched with
            active := true, deadline := t + BitVec.ofNat 32 (delay - age), tag := .handover } }))

/-- Rules R400 to R402, R406: a low tick that completes no reversal measures the speed while BEMF is valid, slews the
target in ClosedLoop and clears it otherwise, and in ClosedLoop with a valid BEMF runs the PID, whose output is the
duty. -/
def Obligations.LowTickRegulates : Prop :=
  ∀ s : State, ¬ReversalDue s →
    let m := tickSpeed s
    let slope := F32.ofWord s.cfg.speedSlopeRpm
    let x := s.speed.target
    let c := s.speed.cmd
    let target :=
      if F32.lt x c = true then F32.minf (F32.add x slope) c
      else if F32.gt x c = true then F32.maxf (F32.sub x slope) c
      else c
    let e := F32.sub target m
    let integ := F32.clampf
      (F32.add s.pid.integ (F32.mul (F32.mul (F32.ofWord s.cfg.pidKi) e) (F32.ofWord s.cfg.pidTsS)))
      (F32.ofWord s.cfg.pidIMin) (F32.ofWord s.cfg.pidIMax)
    let dterm := F32.div (F32.sub e s.pid.prevErr) (F32.ofWord s.cfg.pidTsS)
    let u := F32.clampf
      (F32.add (F32.add (F32.mul (F32.ofWord s.cfg.pidKp) e) integ) (F32.mul (F32.ofWord s.cfg.pidKd) dterm))
      (F32.ofWord s.cfg.pidOutMin) (F32.ofWord s.cfg.pidOutMax)
    (s.ctl.mode ≠ .closedLoop →
      exec .lowTick s = .next { s with speed := { s.speed with meas := m, target := ⟨0⟩ } }) ∧
    (s.ctl.mode = .closedLoop → s.bemf.valid = false →
      exec .lowTick s = .next { s with speed := { s.speed with target := target } }) ∧
    (s.ctl.mode = .closedLoop → s.bemf.valid = true →
      exec .lowTick s = .next { s with
        speed := { s.speed with meas := m, target := target, duty := u }
        pid := { integ := integ, prevErr := e, lastOut := u } })

/-- Rules R400, R403: a low tick at which a pending reversal is due stops the motor with cause 5, flips the direction,
commands the buffered magnitude and starts a run, within the one event. -/
def Obligations.LowTickReverses : Prop :=
  ∀ s : State, ReversalDue s →
    let stopped := stoppedBy .reversal s
    exec .lowTick s = .next (runStarted s.env.time { stopped with speed := { stopped.speed with
      motorDir := (if s.speed.motorDir = .cw then .ccw else .cw), cmd := s.speed.revBuf } })

/-- Rules R252, R253: an expiry with the user tag counts it; an expiry whose guard is false only empties the slot; an
expiry with no event pending, or with the tag `T_NONE`, stops (log 11). -/
def Obligations.TimerExpirySkipsAndCounts : Prop :=
  ∀ s : State,
    (s.sched.active = true → s.sched.tag = .user →
      exec .timerExpire s = .next { s with sched := { s.sched with
        active := false, tag := .none, userFired := s.sched.userFired + 1 } }) ∧
    (s.sched.active = true →
      ((s.sched.tag = .alignDone ∧ ¬(s.ctl.mode = .openLoop ∧ s.ctl.aligning = true)) ∨
        (s.sched.tag = .rampStep ∧ s.ramp.active = false) ∨
        (s.sched.tag = .handover ∧ ¬(s.ctl.mode = .openLoop ∧ s.comm.transition = true)) ∨
        (s.sched.tag = .clComm ∧ ¬(s.ctl.mode = .closedLoop ∧ s.comm.armed = true))) →
      exec .timerExpire s = .next { s with sched := { s.sched with active := false, tag := .none } }) ∧
    (s.sched.active = false → exec .timerExpire s = .fault .expiryWithoutEvent) ∧
    (s.sched.active = true → s.sched.tag = .none → exec .timerExpire s = .fault .expiryWithoutTag)

/-- Rules R252, R253, R346: the end of the alignment clears the BEMF detection state and starts the state machine's ramp
at the deadline. -/
def Obligations.TimerEndsAlignment : Prop :=
  ∀ s : State, s.sched.active = true → s.sched.tag = .alignDone → s.ctl.mode = .openLoop → s.ctl.aligning = true →
    exec .timerExpire s = .next (rampStarted s.sched.deadline .stateMachine s.speed.motorDir { s with
      ctl := { s.ctl with aligning := false }
      bemf := bemfCleared s.bemf })

/-- Rules R282 to R291, R354: a ramp step adds the delay that ended, finishes the ramp when the elapsed time reaches the
total (and, for the state machine's ramp, stops the run with cause 3), and otherwise commutates with the profile's
frequency and duty and schedules the next step. -/
def Obligations.TimerStepsRamp : Prop :=
  ∀ s : State, s.sched.active = true → s.sched.tag = .rampStep → s.ramp.active = true →
    let elapsed : Word := BitVec.ofNat 32 (min (s.ramp.elapsed.toNat + s.ramp.lastDelay.toNat) 0xFFFFFFFF)
    let total := s.ramp.ctx.tMs.toNat * 1000
    let finished : State := { s with
      sched := { s.sched with active := false, tag := .none }
      inv := { s.inv with ph := ⟨.hiZ, .hiZ, .hiZ⟩ }
      ramp := { s.ramp with active := false, elapsed := elapsed, doneCount := s.ramp.doneCount + 1 } }
    let c := s.ramp.ctx
    let r := F32.clampf (F32.div (F32.ofNat elapsed.toNat) (F32.ofNat total)) ⟨0⟩ F32.one
    let f :=
      if c.prof = 0 then F32.add (F32.mul (F32.sub F32.one r) c.fs) (F32.mul r c.fe)
      else if c.prof = 1 then F32.mul c.fs (F32.pow32 (F32.div c.fe c.fs) r)
      else if c.prof = 2 then F32.add c.fs (F32.mul (F32.mul r r) (F32.sub c.fe c.fs))
      else F32.sub c.fe (F32.mul (F32.sub c.fe c.fs) (F32.exp32 (F32.neg (F32.mul c.logK r))))
    let d := F32.add c.ds (F32.mul (F32.mul r (F32.sqrt r)) (F32.sub c.de c.ds))
    let t := s.sched.deadline
    let k := s.ramp.step + 1
    (total ≤ elapsed.toNat → s.ramp.owner = .host → exec .timerExpire s = .next finished) ∧
    (total ≤ elapsed.toNat → s.ramp.owner = .stateMachine →
      exec .timerExpire s = .next (stoppedBy .rampEnd finished)) ∧
    (elapsed.toNat < total → exec .timerExpire s = .next { s with
      sched := { s.sched with active := true, deadline := t + rampDelay s.cfg f, tag := .rampStep }
      ramp := { s.ramp with elapsed := elapsed, freq := f, duty := d, step := k, lastDelay := rampDelay s.cfg f }
      comm := committedComm k d s.ramp.dir t s.comm
      inv := committedInv s.inst.phaseMap k d s.ramp.dir })

/-- Rules R252, R253, R349, R350, R352: the handover commutation and the closed-loop commutation, at the deadline. -/
def Obligations.TimerCommutates : Prop :=
  ∀ s : State, s.sched.active = true →
    (s.sched.tag = .handover → s.ctl.mode = .openLoop → s.comm.transition = true →
      exec .timerExpire s = .next (handedOver s.sched.deadline s)) ∧
    (s.sched.tag = .clComm → s.ctl.mode = .closedLoop → s.comm.armed = true →
      exec .timerExpire s = .next { s with
        sched := { s.sched with active := false, tag := .none }
        comm := { committedComm (s.comm.step + 1) s.speed.duty s.comm.dir s.sched.deadline s.comm with
          armed := false, handoverArmed := false }
        inv := committedInv s.inst.phaseMap (s.comm.step + 1) s.speed.duty s.comm.dir })

/-! ### The register window -/

/-- Rules R40, R43, R44, R105 to R107, R122: a write to a read-write register stores a legal value, in the bits the
register has; an illegal value and a write to any other offset are ignored; no other register and no other element
changes. -/
def Obligations.HostWriteStores : Prop :=
  ∀ (off v : Word) (s : State), off.toNat % 4 = 0 → off.toNat < 0x400 → off ≠ 0x004 →
    ∃ t, exec (.hostWrite off v .four) s = .next t ∧
      t = { answered 0 s with iface := t.iface, cfg := t.cfg } ∧
      t.iface.lastOpc = s.iface.lastOpc ∧ t.iface.lastErr = s.iface.lastErr ∧
      (memRead off.toNat t =
        if isWritable off.toNat = true ∧ isLegalValue off.toNat v = true then keptBits off.toNat v
        else memRead off.toNat s) ∧
      ∀ o, o ≠ off.toNat → memRead o t = memRead o s

/-- Rules R31, R38, R51, R53, R54, R56 to R61, R104 to R106, R121: a read inside the window returns the register's current
value and changes nothing.  Every register that holds one element reads that element; `TIME_US` reads the event's time,
`CMD` and every reserved offset read 0.  A datum reads as its pattern, the NaN datum as `NUM_NAN` (rules R14, R16; log 10).
`FieldRegistersMirror` gives the field registers. -/
def Obligations.HostReadAnswers : Prop :=
  (∀ (off : Word) (s : State), off.toNat % 4 = 0 → off.toNat < 0x400 →
    exec (.hostRead off .four) s = .next (answered (memRead off.toNat s) s)) ∧
  (∀ s : State, (∀ e ∈ plainRegisters, memRead e.1 s = e.2 s) ∧
    memRead 0x024 s = s.env.time ∧ memRead 0x004 s = 0 ∧ memRead 0x000 s = 0x4E440100 ∧
    ∀ off, off % 4 = 0 → (off = 0x00C ∨ (0x028 ≤ off ∧ off < 0x040) ∨ (0x060 ≤ off ∧ off < 0x080) ∨
      (0x0A0 ≤ off ∧ off < 0x0C0) ∨ (0x0EC ≤ off ∧ off < 0x100) ∨ (0x12C ≤ off ∧ off < 0x200) ∨
      (0x238 ≤ off ∧ off < 0x240) ∨ off = 0x24C ∨ (0x284 ≤ off ∧ off < 0x290) ∨
      (0x298 ≤ off ∧ off < 0x2A0) ∨ (0x2B4 ≤ off ∧ off < 0x2C0) ∨ (0x2CC ≤ off ∧ off < 0x2E0) ∨
      0x2F8 ≤ off) → memRead off s = 0) ∧
  ∀ (p : Instance) (x : F32),
    (x.pat.toNat % 2 ^ 31 ≤ 0x7F800000 → bits p x = x.pat) ∧
    (0x7F800000 < x.pat.toNat % 2 ^ 31 →
      (bits p x).toNat = 2 ^ 31 * p.numNaN.negative.toNat + 0x7FC00000 + p.numNaN.payload.toNat)

/-- Rules R102, R103, R482: an access of a width other than four bytes, at a misaligned offset, or outside the window
changes no state, and is answered with 0 and the error response. -/
def Obligations.AccessErrorsChangeNothing : Prop :=
  ∀ (off v : Word) (n : AccessWidth) (s : State), (n ≠ .four ∨ off.toNat % 4 ≠ 0 ∨ 0x400 ≤ off.toNat) →
    exec (.hostRead off n) s = .next { s with env := { s.env with resp := { data := 0, error := true } } } ∧
    exec (.hostWrite off v n) s = .next { s with env := { s.env with resp := { data := 0, error := true } } }

/-- Rules R32, R35, R52, R54, R56 to R59: the field registers read exactly the elements they mirror, at the bits the rules
give, and 0 elsewhere. -/
def Obligations.FieldRegistersMirror : Prop :=
  ∀ s : State,
    (memRead 0x008 s).toNat = s.iface.lastOpc.toNat + 2 ^ 8 * (cmdErrCode s.iface.lastErr).toNat ∧
    (memRead 0x020 s).toNat =
      (modeCode s.ctl.mode).toNat + 2 ^ 2 * s.ctl.aligning.toNat + 2 ^ 3 * s.ramp.active.toNat +
      2 ^ 4 * (ownerBit s.ramp.owner).toNat + 2 ^ 5 * s.sched.active.toNat + 2 ^ 8 * s.bemf.zcFlag.toNat +
      2 ^ 9 * s.bemf.valid.toNat + 2 ^ 10 * s.bemf.initDone.toNat + 2 ^ 12 * s.comm.armed.toNat +
      2 ^ 13 * s.comm.transition.toNat + 2 ^ 14 * s.comm.handoverArmed.toNat +
      2 ^ 16 * s.speed.reversePending.toNat + 2 ^ 17 * (dirBit s.speed.motorDir).toNat +
      2 ^ 20 * s.ctl.faultLatched.toNat + 2 ^ 24 * s.adc.isNew.toNat + 2 ^ 25 * s.adc.overrun.toNat +
      2 ^ 28 * (stopCauseCode s.ctl.stopCause).toNat ∧
    (memRead 0x208 s).toNat =
      s.bemf.zcFlag.toNat + 2 * s.bemf.valid.toNat + 2 ^ 2 * (cphaseCode s.bemf.zcPhase).toNat +
      2 ^ 4 * s.bemf.initDone.toNat + 2 ^ 5 * s.bemf.baselineDone.toNat + 2 ^ 6 * s.bemf.periodSeeded.toNat +
      2 ^ 8 * s.bemf.prevOk.a.toNat + 2 ^ 9 * s.bemf.prevOk.b.toNat + 2 ^ 10 * s.bemf.prevOk.c.toNat ∧
    (memRead 0x20C s).toNat = s.bemf.validCnt.toNat + 2 ^ 16 * s.bemf.invalidCnt.toNat ∧
    (memRead 0x220 s).toNat =
      s.comm.step.val + 2 ^ 4 * (dirBit s.comm.dir).toNat + 2 ^ 8 * (cphaseCode s.comm.float).toNat ∧
    (memRead 0x230 s).toNat =
      (outStateCode s.inv.ph.a).toNat + 2 ^ 4 * (outStateCode s.inv.ph.b).toNat +
      2 ^ 8 * (outStateCode s.inv.ph.c).toNat ∧
    (memRead 0x240 s).toNat = s.sched.active.toNat + 2 ^ 4 * (tagCode s.sched.tag).toNat ∧
    (memRead 0x250 s).toNat =
      s.ramp.active.toNat + 2 * (ownerBit s.ramp.owner).toNat + 2 ^ 2 * (dirBit s.ramp.dir).toNat +
      2 ^ 4 * s.ramp.step.val ∧
    (memRead 0x290 s).toNat = s.ho.step.val + 2 ^ 4 * (dirBit s.ho.dir).toNat + 2 ^ 16 * s.ho.streak.toNat

/-- Rule R109: reads are idempotent; a write to `CMD` is not; writes to any other register are. -/
def Obligations.RegisterAccessesAreIdempotent : Prop :=
  (∀ (off : Word) (n : AccessWidth) (s t : State), exec (.hostRead off n) s = .next t →
    exec (.hostRead off n) t = .next t) ∧
  (∀ (off v : Word) (n : AccessWidth) (s t : State), off ≠ 0x004 → exec (.hostWrite off v n) s = .next t →
    exec (.hostWrite off v n) t = .next t) ∧
  ∃ (v : Word) (s t u : State), exec (.hostWrite 0x004 v .four) s = .next t ∧
    exec (.hostWrite 0x004 v .four) t = .next u ∧ u ≠ t

/-! ### Invariants -/

/-- Rules R14, R44, R64, R530: the state right after reset meets every invariant below. -/
def Obligations.ResetMeetsInvariants : Prop :=
  GuardInv State.reset ∧ LoopRampIdle State.reset ∧ CfgLegal State.reset.cfg ∧ FaultOff State.reset ∧
    DataCanonical State.reset

/-- Rule R64, items 2 to 8: every step keeps the guard invariants, from every state that meets them.  Item 1, one pending
event at most, is the one slot of `State`. -/
def Obligations.GuardInvariantKept : Prop :=
  GuardInv State.reset ∧ ∀ s t : State, GuardInv s → step s = .next t → GuardInv t

/-- Rules R293, R349: in ClosedLoop no ramp is active, and every step keeps it so. -/
def Obligations.LoopRampIdleKept : Prop :=
  ∀ s t : State, LoopRampIdle s → step s = .next t → LoopRampIdle t

/-- Rules R44, R409: every step keeps the configuration registers at legal values. -/
def Obligations.ConfigurationStaysLegal : Prop :=
  ∀ s t : State, CfgLegal s.cfg → step s = .next t → CfgLegal t.cfg

/-- Rules R480, R481, R485: while a fault is latched the core stays in Stopped with every phase Hi-Z and no ramp active,
whatever event comes, until the latch clears. -/
def Obligations.FaultedOutputsStayOff : Prop :=
  ∀ s t : State, FaultOff s → step s = .next t → FaultOff t

/-- Every f32 element holds a datum with at most the one NaN, also where it is only copied from a register, and every step
keeps it so, whatever `NUM_POW` and `NUM_EXP` are: the model's deduction from rule R14 (log 10). -/
def Obligations.DataStayCanonical : Prop :=
  ∀ s t : State, DataCanonical s → step s = .next t → DataCanonical t

/-- Rules R253, R489: with the slot tagged (rule R64 item 7), a step never faults: it answers a next state, or refuses an
input that is no event or is out of order. -/
def Obligations.StepNeverFaults : Prop :=
  ∀ s : State, SlotTagged s →
    (∃ t, step s = .next t) ∨ (∃ why, step s = .refused (.notAnEvent why)) ∨ step s = .refused .timeOrder

/-! ### Whole-machine rules -/

/-- Rule R344: these are all the changes of `MODE`, and of OpenLoop's phases, with the events that make them.  A power-on
reset (rule R530) enters Stopped from any mode; a reversal leaves ClosedLoop and enters OpenLoop within one low tick. -/
def Obligations.ModeChangesOnlyByTable : Prop :=
  ∀ (i : Instr) (s t : State), GuardInv s → LoopRampIdle s → exec i s = .next t →
    match s.ctl.mode, t.ctl.mode with
    | .stopped, .stopped => True
    | .stopped, .openLoop => commandOf i = some .setSpeed ∧ t.ctl.aligning = true
    | .stopped, .closedLoop => False
    | .openLoop, .stopped =>
      commandOf i = some .motorStop ∨ i = .faultIn ∨ (i = .timerExpire ∧ s.sched.tag = .rampStep) ∨ i = .reset
    | .openLoop, .openLoop =>
      (s.ctl.aligning = true → t.ctl.aligning = false → i = .timerExpire ∧ s.sched.tag = .alignDone) ∧
        (s.ctl.aligning = false → t.ctl.aligning = true →
          i = .lowTick ∧ s.speed.reversePending = true ∧ t.ctl.stopCause = .reversal) ∧
        (s.comm.transition = false → t.comm.transition = true → i = .fastTick)
    | .openLoop, .closedLoop => i = .fastTick ∨ (i = .timerExpire ∧ s.sched.tag = .handover)
    | .closedLoop, .stopped => commandOf i = some .motorStop ∨ i = .faultIn ∨ i = .fastTick ∨ i = .reset
    | .closedLoop, .openLoop =>
      i = .lowTick ∧ s.speed.reversePending = true ∧ t.ctl.aligning = true ∧ t.ctl.stopCause = .reversal
    | .closedLoop, .closedLoop => True

/-- Rule R37: `STOP_CAUSE` changes only with the event its code stands for. -/
def Obligations.StopCauseRecordsWhy : Prop :=
  ∀ (i : Instr) (s t : State), exec i s = .next t → t.ctl.stopCause ≠ s.ctl.stopCause →
    match t.ctl.stopCause with
    | .none => i = .reset
    | .stopCommand => commandOf i = some .motorStop
    | .hardwareFault => i = .faultIn
    | .rampEnd => i = .timerExpire ∧ s.sched.tag = .rampStep
    | .stallTimeout => i = .fastTick ∧ s.ctl.mode = .closedLoop
    | .reversal => i = .lowTick ∧ s.speed.reversePending = true

/-- Rules R356, R486: whatever event ends a run, it leaves every phase Hi-Z, the slot empty, the guard flags clear and no
ramp active. -/
def Obligations.StopsAreSafe : Prop :=
  ∀ (i : Instr) (s t : State), exec i s = .next t → s.ctl.mode ≠ .stopped → t.ctl.mode = .stopped →
    AllHiZ t ∧ SlotEmpty t ∧ t.ctl.aligning = false ∧ t.comm.armed = false ∧ t.comm.transition = false ∧
      t.comm.handoverArmed = false ∧ t.ramp.active = false ∧ t.speed.reversePending = false ∧
      t.speed.duty = ⟨0⟩ ∧ t.speed.cmd = ⟨0⟩

/-- Rules R349, R357: the event that enters ClosedLoop from OpenLoop makes exactly one commutation, drives its pattern,
keeps the ramp's state but its active flag, and seeds the duty and the target. -/
def Obligations.HandoverKeepsDriving : Prop :=
  ∀ (i : Instr) (s t : State), exec i s = .next t → s.ctl.mode = .openLoop → t.ctl.mode = .closedLoop →
    t.inv = committedInv s.inst.phaseMap t.comm.step t.ho.duty t.ho.dir ∧ ¬AllHiZ t ∧
      t.comm.step = t.ho.step + 1 ∧ t.comm.count = s.comm.count + 1 ∧
      t.ramp = { s.ramp with active := false } ∧ t.speed.duty = t.ho.duty ∧ t.speed.target = s.speed.meas ∧
      t.sched.active = true ∧ t.sched.tag = .clComm ∧ t.comm.armed = true ∧ t.comm.handoverArmed = true

/-- Rules R54, R333: the commutation context changes only by a commutation, which counts itself, drives its pattern, and
stamps the event's time or, in a callback, the deadline. -/
def Obligations.CommutationsAreCounted : Prop :=
  ∀ (i : Instr) (s t : State), exec i s = .next t → i ≠ .reset →
    (t.comm.count = s.comm.count ∧ t.comm.step = s.comm.step ∧ t.comm.dir = s.comm.dir ∧
      t.comm.float = s.comm.float ∧ t.comm.duty = s.comm.duty ∧ t.comm.lastComm = s.comm.lastComm) ∨
    (t.comm.count = s.comm.count + 1 ∧ t.comm.float = floatOf t.comm.step t.comm.dir ∧
      t.comm.lastComm = (if i = .timerExpire then s.sched.deadline else s.env.time) ∧
      t.inv = committedInv s.inst.phaseMap t.comm.step t.comm.duty t.comm.dir)

/-- Rules R51, R215, R216: outside reset, `ZC_COUNT` changes only by one, at a fast tick that accepts a crossing on the
committed floating phase and stamps its own time. -/
def Obligations.CrossingsAreCounted : Prop :=
  ∀ (i : Instr) (s t : State), exec i s = .next t → i ≠ .reset → t.bemf.zcCount ≠ s.bemf.zcCount →
    i = .fastTick ∧ SampleReady s ∧ t.bemf.zcCount = s.bemf.zcCount + 1 ∧ t.bemf.lastZc = s.env.time ∧
      t.bemf.zcPhase = s.comm.float ∧ t.bemf.invalidCnt = 0

/-- Rule R404: `SPEED_MEAS` changes only at a low tick with a valid BEMF, to the measured speed, or to +0.0 by
`start_run` or `safety_stop`, at the events that call them, or by `RESET` (rule R63).  So while BEMF is invalid an event that
neither starts nor ends a run holds its value. -/
def Obligations.SpeedChangesOnlyWhenMeasured : Prop :=
  ∀ (i : Instr) (s t : State), exec i s = .next t →
    (t.speed.meas ≠ s.speed.meas →
      (i = .lowTick ∧ s.bemf.valid = true ∧ t.speed.meas = tickSpeed s) ∨
        (t.speed.meas = ⟨0⟩ ∧ (EndsOrStartsRun i s t ∨ i = .reset))) ∧
    (s.bemf.valid = false → ¬EndsOrStartsRun i s t → i ≠ .reset → t.speed.meas = s.speed.meas)

/-- Rules R112, R259 (e): before an accepted input, the drain takes finitely many expiries, at most one for each
microsecond they are overdue and two more, and leaves no expiry due.  That each expiry counts as one step is the model's
choice (log 4). -/
def Obligations.DrainReachesInput : Prop :=
  ∀ (s : State) (r : InputRecord) (rest : List InputRecord) (i : Instr), CfgLegal s.cfg → SlotTagged s →
    s.env.inputs = r :: rest → screenInput r s = .ok i →
    ∃ n u, n ≤ (r.t - s.sched.deadline).toNat + 2 ∧ Host.Core.run Sys2Proof.core n s = .next u ∧
      u.env = s.env ∧ expiryFirst i r.t u = false

/-- Rule R224: counting from 0, `BEMF_VALID` becomes 1 exactly at the N-th consecutive acceptance and 0 exactly at the M-th
consecutive rejection; a fast tick at which no crossing passes changes neither run of events. -/
def Obligations.LockExactlyAtThreshold : Prop :=
  (∀ (s : State) (l : List (CPhase × Word)), 1 ≤ s.cfg.bemfLockN.toNat → s.bemf.valid = false →
    s.bemf.validCnt = 0 →
    ((l.foldl (fun u a => periodAccept a.1 a.2 u) s).bemf.valid = true ↔ s.cfg.bemfLockN.toNat ≤ l.length)) ∧
  (∀ (s : State) (l : List Word), 1 ≤ s.cfg.bemfUnlockM.toNat → s.bemf.valid = true → s.bemf.invalidCnt = 0 →
    ((l.foldl (fun u t => periodReject t u) s).bemf.valid = false ↔ s.cfg.bemfUnlockM.toNat ≤ l.length)) ∧
  ∀ s t : State, ¬CrossingPasses s → exec .fastTick s = .next t →
    t.bemf.valid = s.bemf.valid ∧ t.bemf.validCnt = s.bemf.validCnt ∧ t.bemf.invalidCnt = s.bemf.invalidCnt

/-- Rule R65: none of the state is hidden: two machines of one instance whose registers all read the same, `TIME_US` (an
input, rule R38) apart, hold the same core state. -/
def Obligations.StateIsReadable : Prop :=
  ∀ s t : State, s.inst = t.inst → DataCanonical s → DataCanonical t →
    (∀ off, off ≠ 0x024 → memRead off s = memRead off t) → SameCore s t

/-! ### Arithmetic -/

/-- Rule R14, the rounding that every arithmetic operation ends in.  Rounding `m` to units of `2^shift` gives a nearest
integer, and the even one of two; so it does for a `v` strictly between `m` and `m + 1` (the sticky form of division and
square root).  `F32.round` packs the result: it is the binary32 result of `m * 2^e`, or of `v * 2^e`, with subnormals and
overflow. -/
def Obligations.RoundingIsNearestEven : Prop :=
  (∀ m shift : Nat,
    let q : Int := F32.roundUnits m 0 (shift : Int) false
    let unit : Int := 2 ^ shift
    2 * |q * unit - m| ≤ unit ∧ (2 * |q * unit - m| = unit → q % 2 = 0)) ∧
  (∀ (m shift : Nat) (v : ℚ), 1 ≤ shift → m < v → v < m + 1 →
    2 * |(F32.roundUnits m 0 (shift : Int) true : ℚ) * 2 ^ shift - v| < 2 ^ shift) ∧
  (∀ (neg : Bool) (m : Nat) (e : Int), IsRounding (m * 2 ^ e) neg (F32.round neg m e false)) ∧
  ∀ (neg : Bool) (m : Nat) (e : Int) (v : ℚ), 2 ^ 25 ≤ m → m < v → v < m + 1 →
    IsRounding (v * 2 ^ e) neg (F32.round neg m e true)

/-- Rules R14 to R16: on finite data the operations give the binary32 results of the exact ones, a square root one that no
other datum is nearer to, and the comparisons are those of the exact values.  Division by zero and infinite operands give
what IEEE 754 says; a NaN operand gives the NaN datum, and makes a comparison false. -/
def Obligations.ArithmeticIsCorrectlyRounded : Prop :=
  (∀ a b : F32, a.isFinite = true → b.isFinite = true →
    let x := signedValue a
    let y := signedValue b
    (x + y ≠ 0 → IsRounding |x + y| (decide (x + y < 0)) (F32.add a b)) ∧
    (x + y = 0 → F32.add a b = if a.sign = true ∧ b.sign = true then ⟨0x80000000⟩ else ⟨0⟩) ∧
    (x - y ≠ 0 → IsRounding |x - y| (decide (x - y < 0)) (F32.sub a b)) ∧
    (x - y = 0 → F32.sub a b = if a.sign = true ∧ b.sign = false then ⟨0x80000000⟩ else ⟨0⟩) ∧
    IsRounding |x * y| (xor a.sign b.sign) (F32.mul a b) ∧
    (y ≠ 0 → IsRounding |x / y| (xor a.sign b.sign) (F32.div a b)) ∧
    (y = 0 → F32.div a b = if x = 0 then F32.nan else F32.inf (xor a.sign b.sign)) ∧
    (F32.lt a b = true ↔ x < y) ∧ (F32.le a b = true ↔ x ≤ y) ∧ (F32.eq a b = true ↔ x = y)) ∧
  (∀ a : F32, a.isFinite = true → a.sign = false →
    let r := F32.sqrt a
    r.isFinite = true ∧ r.sign = false ∧ ∀ y : F32, y.isFinite = true →
      (magnitudeValue r < magnitudeValue y → 4 * signedValue a ≤ (magnitudeValue r + magnitudeValue y) ^ 2) ∧
      (magnitudeValue y < magnitudeValue r → (magnitudeValue r + magnitudeValue y) ^ 2 ≤ 4 * signedValue a)) ∧
  (∀ n : Nat, IsRounding n false (F32.ofNat n)) ∧
  (∀ a b : F32, a.isInf = true → b.isFinite = true →
    F32.add a b = a ∧ F32.add b a = a ∧ F32.sub a b = a ∧
      F32.mul a b = (if b.isZero = true then F32.nan else F32.inf (xor a.sign b.sign)) ∧
      F32.div a b = F32.inf (xor a.sign b.sign) ∧ F32.div b a = F32.zero (xor b.sign a.sign)) ∧
  (∀ a b : F32, a.isInf = true → b.isInf = true →
    F32.add a b = (if a.sign = b.sign then a else F32.nan) ∧ F32.sub a b = (if a.sign = b.sign then F32.nan else a) ∧
      F32.mul a b = F32.inf (xor a.sign b.sign) ∧ F32.div a b = F32.nan) ∧
  (∀ a b : F32, a.isNaN = true ∨ b.isNaN = true →
    F32.add a b = F32.nan ∧ F32.sub a b = F32.nan ∧ F32.mul a b = F32.nan ∧ F32.div a b = F32.nan ∧
      F32.lt a b = false ∧ F32.le a b = false ∧ F32.eq a b = false) ∧
  ∀ a : F32, a.isNaN = true ∨ (a.sign = true ∧ a.isZero = false) → F32.sqrt a = F32.nan

/-- Rule R286: the Linear profile is exact at both ends, for the finite positive frequencies that rule R44 admits. -/
def Obligations.LinearProfileIsExact : Prop :=
  ∀ c : RampCtx, c.prof = 0 → c.fs.isFinite = true → F32.gt c.fs ⟨0⟩ = true →
    c.fe.isFinite = true → F32.gt c.fe ⟨0⟩ = true →
    freqOf c ⟨0⟩ = c.fs ∧ freqOf c F32.one = c.fe

/-- Rule R406: with zero gains, from a reset PID state and a finite error whose derivative is finite, with a positive lower
bound and an integrator range that holds 0, the output is the lower bound. -/
def Obligations.ZeroGainOutputIsMinimum : Prop :=
  ∀ (c : Cfg) (p : Pid) (sp pv : F32), c.pidKp = 0 → c.pidKi = 0 → c.pidKd = 0 →
    p.integ = ⟨0⟩ → p.prevErr = ⟨0⟩ → (F32.sub sp pv).isFinite = true →
    (F32.div (F32.sub (F32.sub sp pv) ⟨0⟩) (F32.ofWord c.pidTsS)).isFinite = true →
    posFinite c.pidTsS = true → posFinite c.pidOutMin = true →
    F32.le (F32.ofWord c.pidIMin) ⟨0⟩ = true → F32.ge (F32.ofWord c.pidIMax) ⟨0⟩ = true →
    (pidStep c p sp pv).lastOut = F32.ofWord c.pidOutMin

/-- Rules R330 to R332: the six-step table, with its CCW column the CW column read backwards. -/
def Obligations.SixStepTable : Prop :=
  (pattern 0 .cw = (.c, .b, .a) ∧ pattern 1 .cw = (.c, .a, .b) ∧ pattern 2 .cw = (.b, .a, .c) ∧
    pattern 3 .cw = (.b, .c, .a) ∧ pattern 4 .cw = (.a, .c, .b) ∧ pattern 5 .cw = (.a, .b, .c)) ∧
  (∀ k : StepIx, pattern k .ccw = pattern (-k) .cw) ∧
  ∀ (k : StepIx) (d : Dir),
    highOf k d ≠ lowOf k d ∧ lowOf k d ≠ floatOf k d ∧ highOf k d ≠ floatOf k d

/-- Rules R17, R250, R280, R353: `u31sat` of a NaN or a negative datum is 0, from 2^31 on it saturates, and between it drops
the fraction; `ramp_delay` and `comm_delay` are the rules' formulas; and, with legal configuration, every delay an internal
caller gives the scheduler is at most 0x7FFFFFFF, and a ramp delay at least `RAMP_MIN_STEP_US`. -/
def Obligations.DelaysFitTheSlot : Prop :=
  ∀ (c : Cfg) (x : F32),
    (F32.ge x ⟨0⟩ = false → F32.u31sat x = 0) ∧
    (F32.ge x ⟨0x4F000000⟩ = true → F32.u31sat x = 0x7FFFFFFF) ∧
    (F32.ge x ⟨0⟩ = true → F32.ge x ⟨0x4F000000⟩ = false →
      ((F32.u31sat x).toNat : ℚ) ≤ magnitudeValue x ∧ magnitudeValue x < (F32.u31sat x).toNat + 1) ∧
    (rampDelay c x).toNat =
      max (F32.u31sat (F32.div ⟨0x49742400⟩ (F32.mul ⟨0x40C00000⟩ x))).toNat c.rampMinStepUs.toNat ∧
    (let raw := (F32.u31sat (F32.mul x (F32.ofWord c.leadFactor))).toNat;
      (commDelay c x).toNat =
        if raw < c.commDelayMinUs.toNat then c.commDelayMinUs.toNat
        else if c.commDelayMaxUs.toNat < raw then c.commDelayMaxUs.toNat
        else raw) ∧
    (CfgLegal c →
      (F32.u31sat x).toNat ≤ 0x7FFFFFFF ∧ c.rampMinStepUs.toNat ≤ (rampDelay c x).toNat ∧
      (rampDelay c x).toNat ≤ 0x7FFFFFFF ∧ (commDelay c x).toNat ≤ 0x7FFFFFFF ∧
      c.alignTimeUs.toNat ≤ 0x7FFFFFFF)
end

