-- ==== Sys2Proof/Laws/Float32.lean ====
section
/-! SUPPORT. What the parts of a binary32 datum are, said once: packing, the exact value as significand and exponent, the
order of magnitudes, the integer square root, and `u31sat`. -/

namespace Sys2Proof.F32

/-! ### Packing and classes -/

theorem magnitude_lt (x : F32) : x.magnitude < 2 ^ 31 := Nat.mod_lt _ (by norm_num)

/-- A packed datum has the sign and magnitude it was given. -/
theorem pack_parts (neg : Bool) (g : ℕ) (h : g < 2 ^ 31) :
    (F32.pack neg g).magnitude = g ∧ (F32.pack neg g).sign = neg := by
  unfold F32.pack F32.magnitude F32.sign
  have hn : ∀ n : ℕ, n < 2 ^ 32 → (BitVec.ofNat 32 n).toNat = n := fun n h => by simp; omega
  cases neg
  · simp only [Bool.false_eq_true, if_false]
    refine ⟨by rw [hn _ (by omega)]; omega, ?_⟩
    rw [BitVec.getLsbD, hn _ (by omega)]
    exact Nat.testBit_lt_two_pow h
  · simp only [if_true]
    refine ⟨by rw [hn _ (by omega)]; omega, ?_⟩
    rw [BitVec.getLsbD, hn _ (by omega), Nat.testBit_two_pow_add_eq, Nat.testBit_lt_two_pow h]; rfl

/-- A packed pattern is even exactly when its magnitude is. -/
theorem pack_even (neg : Bool) (g : ℕ) : (F32.pack neg g).pat.toNat % 2 = g % 2 := by
  unfold F32.pack
  cases neg
  · simp
  · simp; omega

/-- A finite datum is neither a NaN nor infinite. -/
theorem finite_class (x : F32) (h : x.isFinite = true) : x.isNaN = false ∧ x.isInf = false := by
  unfold F32.isFinite F32.isNaN F32.isInf at *
  simp at *; omega

/-- An infinity is no NaN, no zero and not finite. -/
theorem inf_class (x : F32) (h : x.isInf = true) : x.isNaN = false ∧ x.isZero = false ∧ x.isFinite = false := by
  unfold F32.isInf at h
  have hm : x.magnitude = 0x7F800000 := by simpa using h
  exact ⟨by simp [F32.isNaN, hm], by simp [F32.isZero, hm], by simp [F32.isFinite, hm]⟩

/-! ### Significand and exponent -/

theorem mant_lt (x : F32) : x.mant < 2 ^ 24 := by
  unfold F32.mant F32.fracField; split <;> omega

theorem mant_eq_zero (x : F32) : x.mant = 0 ↔ x.magnitude = 0 := by
  have := x.pat.isLt
  unfold F32.mant F32.expField F32.fracField F32.magnitude
  split <;> constructor <;> intro <;> omega

/-! ### Rounding to units -/

/-- Rounding depends on the two exponents through their difference alone. -/
theorem roundUnits_shift (m shift : ℕ) (e lsb : ℤ) (st : Bool) (h : lsb - e = shift) :
    F32.roundUnits m e lsb st = F32.roundUnits m 0 (shift : ℤ) st := by
  unfold F32.roundUnits
  by_cases hs : (shift : ℤ) ≤ 0
  · rw [if_pos (show lsb ≤ e by omega), if_pos hs]; congr 1; omega
  · rw [if_neg (show ¬lsb ≤ e by omega), if_neg hs]
    have : (lsb - e).toNat = ((shift : ℤ) - 0).toNat := by omega
    rw [this]

/-- `isqrtFrom` finds the integer square root that lies in its range. -/
theorem isqrtFrom_spec (n : ℕ) : ∀ k r, r * r ≤ n → n < (r + 2 ^ k) * (r + 2 ^ k) →
    F32.isqrtFrom n k r * F32.isqrtFrom n k r ≤ n ∧
      n < (F32.isqrtFrom n k r + 1) * (F32.isqrtFrom n k r + 1)
  | 0, r, h1, h2 => by simpa [F32.isqrtFrom] using ⟨h1, h2⟩
  | k + 1, r, h1, h2 => by
    unfold F32.isqrtFrom
    split
    · next h => exact isqrtFrom_spec n k _ h (by rw [pow_succ] at h2; convert h2 using 2 <;> ring)
    · next h => exact isqrtFrom_spec n k _ h1 (by omega)

/-! ### Comparison and `u31sat` -/

theorem ge_iff (x y : F32) : F32.ge x y = true ↔ y.isNaN = false ∧ x.isNaN = false ∧ y.key ≤ x.key := by
  unfold F32.ge F32.le; simp [and_assoc]

/-- Everything `u31sat` can do. -/
theorem u31sat_cases (x : F32) :
    (F32.ge x ⟨0⟩ = false ∧ F32.u31sat x = 0) ∨
      (F32.ge x ⟨0⟩ = true ∧ F32.ge x F32.twoPow31 = true ∧ F32.u31sat x = 0x7FFFFFFF) ∨
      (F32.ge x ⟨0⟩ = true ∧ F32.ge x F32.twoPow31 = false ∧ F32.u31sat x = BitVec.ofNat 32 x.trunc) := by
  unfold F32.u31sat
  cases F32.ge x ⟨0⟩
  · exact .inl ⟨rfl, rfl⟩
  · cases F32.ge x F32.twoPow31
    · exact .inr (.inr ⟨rfl, rfl, rfl⟩)
    · exact .inr (.inl ⟨rfl, rfl, rfl⟩)

end Sys2Proof.F32

namespace Sys2Proof.Machine

/-! ### Exact values -/

/-- The exact magnitude is the significand in units of the last place. -/
theorem magnitudeValue_eq (x : F32) : magnitudeValue x = x.mant * 2 ^ ((x.ex : ℤ) - 149) := by
  have h2 : (2 : ℚ) ^ ((x.ex : ℤ) - 149) = 2 ^ x.ex / 2 ^ 149 := by
    rw [show ((x.ex : ℤ) - 149) = (x.ex : ℤ) - (149 : ℕ) by push_cast; rfl, zpow_sub₀ (by norm_num), zpow_natCast,
      zpow_natCast]
  rw [h2]
  unfold magnitudeValue F32.mant F32.ex F32.expField F32.fracField
  simp only
  split
  · simp; ring
  · next h =>
    obtain ⟨n, hn⟩ := Nat.exists_eq_succ_of_ne_zero h
    rw [hn]; push_cast
    rw [Nat.succ_eq_add_one, pow_succ]; ring

theorem magnitudeValue_nonneg (x : F32) : 0 ≤ magnitudeValue x := by rw [magnitudeValue_eq]; positivity

theorem signedValue_eq (x : F32) : signedValue x = x.signedMant * 2 ^ ((x.ex : ℤ) - 149) := by
  unfold signedValue F32.signedMant
  rw [magnitudeValue_eq]; split <;> push_cast <;> ring

/-- The exact value that a pattern without its sign bit stands for. -/
def patternValue (g : ℕ) : ℚ :=
  if g / 2 ^ 23 = 0 then (g % 2 ^ 23 : ℕ) / 2 ^ 149
  else (2 ^ 23 + (g % 2 ^ 23 : ℕ)) * 2 ^ (g / 2 ^ 23) / 2 ^ 150

theorem magnitudeValue_pattern (x : F32) : magnitudeValue x = patternValue x.magnitude := by
  unfold magnitudeValue patternValue F32.magnitude
  have h := x.pat.isLt
  have e1 : x.pat.toNat / 2 ^ 23 % 2 ^ 8 = x.pat.toNat % 2 ^ 31 / 2 ^ 23 := by omega
  have e2 : x.pat.toNat % 2 ^ 31 % 2 ^ 23 = x.pat.toNat % 2 ^ 23 := by omega
  simp only [e1, e2]

/-- The pattern that `F32.round` packs, `u` units of exponent `k`, stands for `u * 2^(k - 149)`; so it does when `u` has
carried into the next exponent. -/
theorem patternValue_units (k u : ℕ) (hu : u ≤ 2 ^ 24) (h : k = 0 ∨ 2 ^ 23 ≤ u) :
    patternValue (k * 2 ^ 23 + u) = u * 2 ^ k / 2 ^ 149 := by
  unfold patternValue
  rcases Nat.lt_or_ge u (2 ^ 23) with h1 | h1
  · obtain rfl : k = 0 := by omega
    have e1 : (0 * 2 ^ 23 + u) / 2 ^ 23 = 0 := by omega
    have e2 : (0 * 2 ^ 23 + u) % 2 ^ 23 = u := by omega
    rw [if_pos e1, e2]; simp
  · rcases Nat.lt_or_ge u (2 ^ 24) with h3 | h3
    · have e1 : (k * 2 ^ 23 + u) / 2 ^ 23 = k + 1 := by omega
      have e2 : (k * 2 ^ 23 + u) % 2 ^ 23 = u - 2 ^ 23 := by omega
      rw [e1, e2, if_neg (by omega), Nat.cast_sub h1, pow_succ]
      push_cast; ring
    · obtain rfl : u = 2 ^ 24 := by omega
      have e1 : (k * 2 ^ 23 + 2 ^ 24) / 2 ^ 23 = k + 2 := by omega
      have e2 : (k * 2 ^ 23 + 2 ^ 24) % 2 ^ 23 = 0 := by omega
      rw [e1, e2, if_neg (by omega)]
      push_cast; ring

/-- A greater pattern is a greater magnitude. -/
theorem patternValue_strictMono : StrictMono patternValue := by
  refine strictMono_nat_of_lt_succ fun g => ?_
  obtain ⟨k, u, rfl, h1, h2⟩ : ∃ k u, g = k * 2 ^ 23 + u ∧ u < 2 ^ 24 ∧ (k = 0 ∨ 2 ^ 23 ≤ u) := by
    rcases Nat.lt_or_ge g (2 ^ 23) with h | h
    · exact ⟨0, g, by omega, by omega, by omega⟩
    · exact ⟨g / 2 ^ 23 - 1, g % 2 ^ 23 + 2 ^ 23, by omega, by omega, by omega⟩
  rw [patternValue_units k u (by omega) h2, Nat.add_assoc, patternValue_units k (u + 1) (by omega) (by omega)]
  push_cast
  have : (0 : ℚ) < 2 ^ k := by positivity
  have : (0 : ℚ) < 2 ^ 149 := by positivity
  gcongr
  linarith

/-! ### `clampu` -/

/-- Everything `clampu` can do (rule R17). -/
theorem clampu_toNat (n lo hi : Word) :
    (clampu n lo hi).toNat =
      if n.toNat < lo.toNat then lo.toNat else if hi.toNat < n.toNat then hi.toNat else n.toNat := by
  unfold clampu
  simp only [BitVec.lt_def]
  split <;> (try split) <;> rfl

end Sys2Proof.Machine
end

