-- ==== Sys2Proof/Laws/State.lean ====
section
/-! SUPPORT. What each shared procedure does to each field of the state: one lemma per field, so that no later proof unfolds
a record update.  A changed field's lemma gives its new value; every other lemma says the field is kept. -/

namespace Sys2Proof.Machine

variable (s : State)

@[simp] theorem cmdDone_inst (opc : BitVec 8) : (cmdDone opc s).inst = s.inst := rfl
@[simp] theorem cmdDone_iface (opc : BitVec 8) :
    (cmdDone opc s).iface = { s.iface with lastOpc := opc, lastErr := .ok } := rfl
@[simp] theorem cmdDone_cfg (opc : BitVec 8) : (cmdDone opc s).cfg = s.cfg := rfl
@[simp] theorem cmdDone_ctl (opc : BitVec 8) : (cmdDone opc s).ctl = s.ctl := rfl
@[simp] theorem cmdDone_bemf (opc : BitVec 8) : (cmdDone opc s).bemf = s.bemf := rfl
@[simp] theorem cmdDone_adc (opc : BitVec 8) : (cmdDone opc s).adc = s.adc := rfl
@[simp] theorem cmdDone_comm (opc : BitVec 8) : (cmdDone opc s).comm = s.comm := rfl
@[simp] theorem cmdDone_inv (opc : BitVec 8) : (cmdDone opc s).inv = s.inv := rfl
@[simp] theorem cmdDone_sched (opc : BitVec 8) : (cmdDone opc s).sched = s.sched := rfl
@[simp] theorem cmdDone_ramp (opc : BitVec 8) : (cmdDone opc s).ramp = s.ramp := rfl
@[simp] theorem cmdDone_ho (opc : BitVec 8) : (cmdDone opc s).ho = s.ho := rfl
@[simp] theorem cmdDone_speed (opc : BitVec 8) : (cmdDone opc s).speed = s.speed := rfl
@[simp] theorem cmdDone_pid (opc : BitVec 8) : (cmdDone opc s).pid = s.pid := rfl
@[simp] theorem cmdDone_env (opc : BitVec 8) : (cmdDone opc s).env = s.env := rfl

@[simp] theorem cmdError_inst (opc : BitVec 8) (code : CmdErr) : (cmdError opc code s).inst = s.inst := rfl
@[simp] theorem cmdError_iface (opc : BitVec 8) (code : CmdErr) :
    (cmdError opc code s).iface = { s.iface with lastOpc := opc, lastErr := code } := rfl
@[simp] theorem cmdError_cfg (opc : BitVec 8) (code : CmdErr) : (cmdError opc code s).cfg = s.cfg := rfl
@[simp] theorem cmdError_ctl (opc : BitVec 8) (code : CmdErr) : (cmdError opc code s).ctl = s.ctl := rfl
@[simp] theorem cmdError_bemf (opc : BitVec 8) (code : CmdErr) : (cmdError opc code s).bemf = s.bemf := rfl
@[simp] theorem cmdError_adc (opc : BitVec 8) (code : CmdErr) : (cmdError opc code s).adc = s.adc := rfl
@[simp] theorem cmdError_comm (opc : BitVec 8) (code : CmdErr) : (cmdError opc code s).comm = s.comm := rfl
@[simp] theorem cmdError_inv (opc : BitVec 8) (code : CmdErr) : (cmdError opc code s).inv = s.inv := rfl
@[simp] theorem cmdError_sched (opc : BitVec 8) (code : CmdErr) : (cmdError opc code s).sched = s.sched := rfl
@[simp] theorem cmdError_ramp (opc : BitVec 8) (code : CmdErr) : (cmdError opc code s).ramp = s.ramp := rfl
@[simp] theorem cmdError_ho (opc : BitVec 8) (code : CmdErr) : (cmdError opc code s).ho = s.ho := rfl
@[simp] theorem cmdError_speed (opc : BitVec 8) (code : CmdErr) : (cmdError opc code s).speed = s.speed := rfl
@[simp] theorem cmdError_pid (opc : BitVec 8) (code : CmdErr) : (cmdError opc code s).pid = s.pid := rfl
@[simp] theorem cmdError_env (opc : BitVec 8) (code : CmdErr) : (cmdError opc code s).env = s.env := rfl

@[simp] theorem setArgs_inst (a b c d : Word) : (setArgs s a b c d).inst = s.inst := rfl
@[simp] theorem setArgs_iface (a b c d : Word) :
    (setArgs s a b c d).iface = { s.iface with arg0 := a, arg1 := b, arg2 := c, arg3 := d } := rfl
@[simp] theorem setArgs_cfg (a b c d : Word) : (setArgs s a b c d).cfg = s.cfg := rfl
@[simp] theorem setArgs_ctl (a b c d : Word) : (setArgs s a b c d).ctl = s.ctl := rfl
@[simp] theorem setArgs_bemf (a b c d : Word) : (setArgs s a b c d).bemf = s.bemf := rfl
@[simp] theorem setArgs_adc (a b c d : Word) : (setArgs s a b c d).adc = s.adc := rfl
@[simp] theorem setArgs_comm (a b c d : Word) : (setArgs s a b c d).comm = s.comm := rfl
@[simp] theorem setArgs_inv (a b c d : Word) : (setArgs s a b c d).inv = s.inv := rfl
@[simp] theorem setArgs_sched (a b c d : Word) : (setArgs s a b c d).sched = s.sched := rfl
@[simp] theorem setArgs_ramp (a b c d : Word) : (setArgs s a b c d).ramp = s.ramp := rfl
@[simp] theorem setArgs_ho (a b c d : Word) : (setArgs s a b c d).ho = s.ho := rfl
@[simp] theorem setArgs_speed (a b c d : Word) : (setArgs s a b c d).speed = s.speed := rfl
@[simp] theorem setArgs_pid (a b c d : Word) : (setArgs s a b c d).pid = s.pid := rfl
@[simp] theorem setArgs_env (a b c d : Word) : (setArgs s a b c d).env = s.env := rfl

@[simp] theorem schedStart_inst (t d : Word) (g : Tag) : (schedStart t d g s).inst = s.inst := rfl
@[simp] theorem schedStart_iface (t d : Word) (g : Tag) : (schedStart t d g s).iface = s.iface := rfl
@[simp] theorem schedStart_cfg (t d : Word) (g : Tag) : (schedStart t d g s).cfg = s.cfg := rfl
@[simp] theorem schedStart_ctl (t d : Word) (g : Tag) : (schedStart t d g s).ctl = s.ctl := rfl
@[simp] theorem schedStart_bemf (t d : Word) (g : Tag) : (schedStart t d g s).bemf = s.bemf := rfl
@[simp] theorem schedStart_adc (t d : Word) (g : Tag) : (schedStart t d g s).adc = s.adc := rfl
@[simp] theorem schedStart_comm (t d : Word) (g : Tag) : (schedStart t d g s).comm = s.comm := rfl
@[simp] theorem schedStart_inv (t d : Word) (g : Tag) : (schedStart t d g s).inv = s.inv := rfl
@[simp] theorem schedStart_sched (t d : Word) (g : Tag) :
    (schedStart t d g s).sched = { s.sched with active := true, deadline := t + d, tag := g } := rfl
@[simp] theorem schedStart_ramp (t d : Word) (g : Tag) : (schedStart t d g s).ramp = s.ramp := rfl
@[simp] theorem schedStart_ho (t d : Word) (g : Tag) : (schedStart t d g s).ho = s.ho := rfl
@[simp] theorem schedStart_speed (t d : Word) (g : Tag) : (schedStart t d g s).speed = s.speed := rfl
@[simp] theorem schedStart_pid (t d : Word) (g : Tag) : (schedStart t d g s).pid = s.pid := rfl
@[simp] theorem schedStart_env (t d : Word) (g : Tag) : (schedStart t d g s).env = s.env := rfl

@[simp] theorem schedCancel_inst : (schedCancel s).inst = s.inst := rfl
@[simp] theorem schedCancel_iface : (schedCancel s).iface = s.iface := rfl
@[simp] theorem schedCancel_cfg : (schedCancel s).cfg = s.cfg := rfl
@[simp] theorem schedCancel_ctl : (schedCancel s).ctl = s.ctl := rfl
@[simp] theorem schedCancel_bemf : (schedCancel s).bemf = s.bemf := rfl
@[simp] theorem schedCancel_adc : (schedCancel s).adc = s.adc := rfl
@[simp] theorem schedCancel_comm : (schedCancel s).comm = s.comm := rfl
@[simp] theorem schedCancel_inv : (schedCancel s).inv = s.inv := rfl
@[simp] theorem schedCancel_sched :
    (schedCancel s).sched = { s.sched with active := false, tag := .none } := rfl
@[simp] theorem schedCancel_ramp : (schedCancel s).ramp = s.ramp := rfl
@[simp] theorem schedCancel_ho : (schedCancel s).ho = s.ho := rfl
@[simp] theorem schedCancel_speed : (schedCancel s).speed = s.speed := rfl
@[simp] theorem schedCancel_pid : (schedCancel s).pid = s.pid := rfl
@[simp] theorem schedCancel_env : (schedCancel s).env = s.env := rfl

@[simp] theorem applyCommutation_inst (k : StepIx) (u : F32) (d : Dir) (t : Word) :
    (applyCommutation k u d t s).inst = s.inst := rfl
@[simp] theorem applyCommutation_iface (k : StepIx) (u : F32) (d : Dir) (t : Word) :
    (applyCommutation k u d t s).iface = s.iface := rfl
@[simp] theorem applyCommutation_cfg (k : StepIx) (u : F32) (d : Dir) (t : Word) :
    (applyCommutation k u d t s).cfg = s.cfg := rfl
@[simp] theorem applyCommutation_ctl (k : StepIx) (u : F32) (d : Dir) (t : Word) :
    (applyCommutation k u d t s).ctl = s.ctl := rfl
@[simp] theorem applyCommutation_bemf (k : StepIx) (u : F32) (d : Dir) (t : Word) :
    (applyCommutation k u d t s).bemf = s.bemf := rfl
@[simp] theorem applyCommutation_adc (k : StepIx) (u : F32) (d : Dir) (t : Word) :
    (applyCommutation k u d t s).adc = s.adc := rfl
@[simp] theorem applyCommutation_comm (k : StepIx) (u : F32) (d : Dir) (t : Word) :
    (applyCommutation k u d t s).comm = { s.comm with
        step := k, dir := d, float := floatOf k d, duty := u, count := inc32 s.comm.count, lastComm := t } := rfl
@[simp] theorem applyCommutation_inv (k : StepIx) (u : F32) (d : Dir) (t : Word) :
    (applyCommutation k u d t s).inv = { ph := drivePattern s.inst.phaseMap k d s.inv.ph, duty := u } := rfl
@[simp] theorem applyCommutation_sched (k : StepIx) (u : F32) (d : Dir) (t : Word) :
    (applyCommutation k u d t s).sched = s.sched := rfl
@[simp] theorem applyCommutation_ramp (k : StepIx) (u : F32) (d : Dir) (t : Word) :
    (applyCommutation k u d t s).ramp = s.ramp := rfl
@[simp] theorem applyCommutation_ho (k : StepIx) (u : F32) (d : Dir) (t : Word) :
    (applyCommutation k u d t s).ho = s.ho := rfl
@[simp] theorem applyCommutation_speed (k : StepIx) (u : F32) (d : Dir) (t : Word) :
    (applyCommutation k u d t s).speed = s.speed := rfl
@[simp] theorem applyCommutation_pid (k : StepIx) (u : F32) (d : Dir) (t : Word) :
    (applyCommutation k u d t s).pid = s.pid := rfl
@[simp] theorem applyCommutation_env (k : StepIx) (u : F32) (d : Dir) (t : Word) :
    (applyCommutation k u d t s).env = s.env := rfl

@[simp] theorem inverterDisable_inst : (inverterDisable s).inst = s.inst := rfl
@[simp] theorem inverterDisable_iface : (inverterDisable s).iface = s.iface := rfl
@[simp] theorem inverterDisable_cfg : (inverterDisable s).cfg = s.cfg := rfl
@[simp] theorem inverterDisable_ctl : (inverterDisable s).ctl = s.ctl := rfl
@[simp] theorem inverterDisable_bemf : (inverterDisable s).bemf = s.bemf := rfl
@[simp] theorem inverterDisable_adc : (inverterDisable s).adc = s.adc := rfl
@[simp] theorem inverterDisable_comm : (inverterDisable s).comm = s.comm := rfl
@[simp] theorem inverterDisable_inv :
    (inverterDisable s).inv = { s.inv with ph := ⟨.hiZ, .hiZ, .hiZ⟩ } := rfl
@[simp] theorem inverterDisable_sched : (inverterDisable s).sched = s.sched := rfl
@[simp] theorem inverterDisable_ramp : (inverterDisable s).ramp = s.ramp := rfl
@[simp] theorem inverterDisable_ho : (inverterDisable s).ho = s.ho := rfl
@[simp] theorem inverterDisable_speed : (inverterDisable s).speed = s.speed := rfl
@[simp] theorem inverterDisable_pid : (inverterDisable s).pid = s.pid := rfl
@[simp] theorem inverterDisable_env : (inverterDisable s).env = s.env := rfl

@[simp] theorem setOutputState_inst (h : HPhase) (o : OutState) : (setOutputState h o s).inst = s.inst := rfl
@[simp] theorem setOutputState_iface (h : HPhase) (o : OutState) : (setOutputState h o s).iface = s.iface := rfl
@[simp] theorem setOutputState_cfg (h : HPhase) (o : OutState) : (setOutputState h o s).cfg = s.cfg := rfl
@[simp] theorem setOutputState_ctl (h : HPhase) (o : OutState) : (setOutputState h o s).ctl = s.ctl := rfl
@[simp] theorem setOutputState_bemf (h : HPhase) (o : OutState) : (setOutputState h o s).bemf = s.bemf := rfl
@[simp] theorem setOutputState_adc (h : HPhase) (o : OutState) : (setOutputState h o s).adc = s.adc := rfl
@[simp] theorem setOutputState_comm (h : HPhase) (o : OutState) : (setOutputState h o s).comm = s.comm := rfl
@[simp] theorem setOutputState_inv (h : HPhase) (o : OutState) :
    (setOutputState h o s).inv = { s.inv with ph := setH s.inv.ph h o } := rfl
@[simp] theorem setOutputState_sched (h : HPhase) (o : OutState) : (setOutputState h o s).sched = s.sched := rfl
@[simp] theorem setOutputState_ramp (h : HPhase) (o : OutState) : (setOutputState h o s).ramp = s.ramp := rfl
@[simp] theorem setOutputState_ho (h : HPhase) (o : OutState) : (setOutputState h o s).ho = s.ho := rfl
@[simp] theorem setOutputState_speed (h : HPhase) (o : OutState) : (setOutputState h o s).speed = s.speed := rfl
@[simp] theorem setOutputState_pid (h : HPhase) (o : OutState) : (setOutputState h o s).pid = s.pid := rfl
@[simp] theorem setOutputState_env (h : HPhase) (o : OutState) : (setOutputState h o s).env = s.env := rfl

@[simp] theorem bemfReset_inst : (bemfReset s).inst = s.inst := rfl
@[simp] theorem bemfReset_iface : (bemfReset s).iface = s.iface := rfl
@[simp] theorem bemfReset_cfg : (bemfReset s).cfg = s.cfg := rfl
@[simp] theorem bemfReset_ctl : (bemfReset s).ctl = s.ctl := rfl
@[simp] theorem bemfReset_bemf :
    (bemfReset s).bemf = { Bemf.reset with initDone := s.bemf.initDone, zcCount := s.bemf.zcCount } := rfl
@[simp] theorem bemfReset_adc : (bemfReset s).adc = s.adc := rfl
@[simp] theorem bemfReset_comm : (bemfReset s).comm = s.comm := rfl
@[simp] theorem bemfReset_inv : (bemfReset s).inv = s.inv := rfl
@[simp] theorem bemfReset_sched : (bemfReset s).sched = s.sched := rfl
@[simp] theorem bemfReset_ramp : (bemfReset s).ramp = s.ramp := rfl
@[simp] theorem bemfReset_ho : (bemfReset s).ho = s.ho := rfl
@[simp] theorem bemfReset_speed : (bemfReset s).speed = s.speed := rfl
@[simp] theorem bemfReset_pid : (bemfReset s).pid = s.pid := rfl
@[simp] theorem bemfReset_env : (bemfReset s).env = s.env := rfl

@[simp] theorem clearZcFlag_inst : (clearZcFlag s).inst = s.inst := rfl
@[simp] theorem clearZcFlag_iface : (clearZcFlag s).iface = s.iface := rfl
@[simp] theorem clearZcFlag_cfg : (clearZcFlag s).cfg = s.cfg := rfl
@[simp] theorem clearZcFlag_ctl : (clearZcFlag s).ctl = s.ctl := rfl
@[simp] theorem clearZcFlag_bemf :
    (clearZcFlag s).bemf = { s.bemf with zcFlag := false } := rfl
@[simp] theorem clearZcFlag_adc : (clearZcFlag s).adc = s.adc := rfl
@[simp] theorem clearZcFlag_comm : (clearZcFlag s).comm = s.comm := rfl
@[simp] theorem clearZcFlag_inv : (clearZcFlag s).inv = s.inv := rfl
@[simp] theorem clearZcFlag_sched : (clearZcFlag s).sched = s.sched := rfl
@[simp] theorem clearZcFlag_ramp : (clearZcFlag s).ramp = s.ramp := rfl
@[simp] theorem clearZcFlag_ho : (clearZcFlag s).ho = s.ho := rfl
@[simp] theorem clearZcFlag_speed : (clearZcFlag s).speed = s.speed := rfl
@[simp] theorem clearZcFlag_pid : (clearZcFlag s).pid = s.pid := rfl
@[simp] theorem clearZcFlag_env : (clearZcFlag s).env = s.env := rfl

@[simp] theorem baseline_inst (t : Word) : (baseline t s).inst = s.inst := rfl
@[simp] theorem baseline_iface (t : Word) : (baseline t s).iface = s.iface := rfl
@[simp] theorem baseline_cfg (t : Word) : (baseline t s).cfg = s.cfg := rfl
@[simp] theorem baseline_ctl (t : Word) : (baseline t s).ctl = s.ctl := rfl
@[simp] theorem baseline_bemf (t : Word) :
    (baseline t s).bemf = { s.bemf with baselineDone := true, lastZc := t } := rfl
@[simp] theorem baseline_adc (t : Word) : (baseline t s).adc = s.adc := rfl
@[simp] theorem baseline_comm (t : Word) : (baseline t s).comm = s.comm := rfl
@[simp] theorem baseline_inv (t : Word) : (baseline t s).inv = s.inv := rfl
@[simp] theorem baseline_sched (t : Word) : (baseline t s).sched = s.sched := rfl
@[simp] theorem baseline_ramp (t : Word) : (baseline t s).ramp = s.ramp := rfl
@[simp] theorem baseline_ho (t : Word) : (baseline t s).ho = s.ho := rfl
@[simp] theorem baseline_speed (t : Word) : (baseline t s).speed = s.speed := rfl
@[simp] theorem baseline_pid (t : Word) : (baseline t s).pid = s.pid := rfl
@[simp] theorem baseline_env (t : Word) : (baseline t s).env = s.env := rfl

@[simp] theorem periodReject_inst (t : Word) : (periodReject t s).inst = s.inst := rfl
@[simp] theorem periodReject_iface (t : Word) : (periodReject t s).iface = s.iface := rfl
@[simp] theorem periodReject_cfg (t : Word) : (periodReject t s).cfg = s.cfg := rfl
@[simp] theorem periodReject_ctl (t : Word) : (periodReject t s).ctl = s.ctl := rfl
@[simp] theorem periodReject_adc (t : Word) : (periodReject t s).adc = s.adc := rfl
@[simp] theorem periodReject_comm (t : Word) : (periodReject t s).comm = s.comm := rfl
@[simp] theorem periodReject_inv (t : Word) : (periodReject t s).inv = s.inv := rfl
@[simp] theorem periodReject_sched (t : Word) : (periodReject t s).sched = s.sched := rfl
@[simp] theorem periodReject_ramp (t : Word) : (periodReject t s).ramp = s.ramp := rfl
@[simp] theorem periodReject_ho (t : Word) : (periodReject t s).ho = s.ho := rfl
@[simp] theorem periodReject_speed (t : Word) : (periodReject t s).speed = s.speed := rfl
@[simp] theorem periodReject_pid (t : Word) : (periodReject t s).pid = s.pid := rfl
@[simp] theorem periodReject_env (t : Word) : (periodReject t s).env = s.env := rfl

@[simp] theorem periodAccept_inst (fp : CPhase) (e : Word) : (periodAccept fp e s).inst = s.inst := rfl
@[simp] theorem periodAccept_iface (fp : CPhase) (e : Word) : (periodAccept fp e s).iface = s.iface := rfl
@[simp] theorem periodAccept_cfg (fp : CPhase) (e : Word) : (periodAccept fp e s).cfg = s.cfg := rfl
@[simp] theorem periodAccept_ctl (fp : CPhase) (e : Word) : (periodAccept fp e s).ctl = s.ctl := rfl
@[simp] theorem periodAccept_adc (fp : CPhase) (e : Word) : (periodAccept fp e s).adc = s.adc := rfl
@[simp] theorem periodAccept_comm (fp : CPhase) (e : Word) : (periodAccept fp e s).comm = s.comm := rfl
@[simp] theorem periodAccept_inv (fp : CPhase) (e : Word) : (periodAccept fp e s).inv = s.inv := rfl
@[simp] theorem periodAccept_sched (fp : CPhase) (e : Word) : (periodAccept fp e s).sched = s.sched := rfl
@[simp] theorem periodAccept_ramp (fp : CPhase) (e : Word) : (periodAccept fp e s).ramp = s.ramp := rfl
@[simp] theorem periodAccept_ho (fp : CPhase) (e : Word) : (periodAccept fp e s).ho = s.ho := rfl
@[simp] theorem periodAccept_speed (fp : CPhase) (e : Word) : (periodAccept fp e s).speed = s.speed := rfl
@[simp] theorem periodAccept_pid (fp : CPhase) (e : Word) : (periodAccept fp e s).pid = s.pid := rfl
@[simp] theorem periodAccept_env (fp : CPhase) (e : Word) : (periodAccept fp e s).env = s.env := rfl

@[simp] theorem recordCrossing_inst (t : Word) : (recordCrossing t s).inst = s.inst := rfl
@[simp] theorem recordCrossing_iface (t : Word) : (recordCrossing t s).iface = s.iface := rfl
@[simp] theorem recordCrossing_cfg (t : Word) : (recordCrossing t s).cfg = s.cfg := rfl
@[simp] theorem recordCrossing_ctl (t : Word) : (recordCrossing t s).ctl = s.ctl := rfl
@[simp] theorem recordCrossing_bemf (t : Word) :
    (recordCrossing t s).bemf = { s.bemf with lastZc := t } := rfl
@[simp] theorem recordCrossing_adc (t : Word) : (recordCrossing t s).adc = s.adc := rfl
@[simp] theorem recordCrossing_comm (t : Word) : (recordCrossing t s).comm = s.comm := rfl
@[simp] theorem recordCrossing_inv (t : Word) : (recordCrossing t s).inv = s.inv := rfl
@[simp] theorem recordCrossing_sched (t : Word) : (recordCrossing t s).sched = s.sched := rfl
@[simp] theorem recordCrossing_ramp (t : Word) : (recordCrossing t s).ramp = s.ramp := rfl
@[simp] theorem recordCrossing_ho (t : Word) : (recordCrossing t s).ho = s.ho := rfl
@[simp] theorem recordCrossing_speed (t : Word) : (recordCrossing t s).speed = s.speed := rfl
@[simp] theorem recordCrossing_pid (t : Word) : (recordCrossing t s).pid = s.pid := rfl
@[simp] theorem recordCrossing_env (t : Word) : (recordCrossing t s).env = s.env := rfl

@[simp] theorem consumeSample_inst : (consumeSample s).inst = s.inst := rfl
@[simp] theorem consumeSample_iface : (consumeSample s).iface = s.iface := rfl
@[simp] theorem consumeSample_cfg : (consumeSample s).cfg = s.cfg := rfl
@[simp] theorem consumeSample_ctl : (consumeSample s).ctl = s.ctl := rfl
@[simp] theorem consumeSample_bemf : (consumeSample s).bemf = s.bemf := rfl
@[simp] theorem consumeSample_adc :
    (consumeSample s).adc = { s.adc with isNew := false } := rfl
@[simp] theorem consumeSample_comm : (consumeSample s).comm = s.comm := rfl
@[simp] theorem consumeSample_inv : (consumeSample s).inv = s.inv := rfl
@[simp] theorem consumeSample_sched : (consumeSample s).sched = s.sched := rfl
@[simp] theorem consumeSample_ramp : (consumeSample s).ramp = s.ramp := rfl
@[simp] theorem consumeSample_ho : (consumeSample s).ho = s.ho := rfl
@[simp] theorem consumeSample_speed : (consumeSample s).speed = s.speed := rfl
@[simp] theorem consumeSample_pid : (consumeSample s).pid = s.pid := rfl
@[simp] theorem consumeSample_env : (consumeSample s).env = s.env := rfl

@[simp] theorem storeSample_inst (fp : CPhase) (b : F32) : (storeSample fp b s).inst = s.inst := rfl
@[simp] theorem storeSample_iface (fp : CPhase) (b : F32) : (storeSample fp b s).iface = s.iface := rfl
@[simp] theorem storeSample_cfg (fp : CPhase) (b : F32) : (storeSample fp b s).cfg = s.cfg := rfl
@[simp] theorem storeSample_ctl (fp : CPhase) (b : F32) : (storeSample fp b s).ctl = s.ctl := rfl
@[simp] theorem storeSample_bemf (fp : CPhase) (b : F32) :
    (storeSample fp b s).bemf = { s.bemf with prev := setC s.bemf.prev fp b, prevOk := setC s.bemf.prevOk fp true } := rfl
@[simp] theorem storeSample_adc (fp : CPhase) (b : F32) : (storeSample fp b s).adc = s.adc := rfl
@[simp] theorem storeSample_comm (fp : CPhase) (b : F32) : (storeSample fp b s).comm = s.comm := rfl
@[simp] theorem storeSample_inv (fp : CPhase) (b : F32) : (storeSample fp b s).inv = s.inv := rfl
@[simp] theorem storeSample_sched (fp : CPhase) (b : F32) : (storeSample fp b s).sched = s.sched := rfl
@[simp] theorem storeSample_ramp (fp : CPhase) (b : F32) : (storeSample fp b s).ramp = s.ramp := rfl
@[simp] theorem storeSample_ho (fp : CPhase) (b : F32) : (storeSample fp b s).ho = s.ho := rfl
@[simp] theorem storeSample_speed (fp : CPhase) (b : F32) : (storeSample fp b s).speed = s.speed := rfl
@[simp] theorem storeSample_pid (fp : CPhase) (b : F32) : (storeSample fp b s).pid = s.pid := rfl
@[simp] theorem storeSample_env (fp : CPhase) (b : F32) : (storeSample fp b s).env = s.env := rfl

@[simp] theorem rampClear_inst : (rampClear s).inst = s.inst := rfl
@[simp] theorem rampClear_iface : (rampClear s).iface = s.iface := rfl
@[simp] theorem rampClear_cfg : (rampClear s).cfg = s.cfg := rfl
@[simp] theorem rampClear_ctl : (rampClear s).ctl = s.ctl := rfl
@[simp] theorem rampClear_bemf : (rampClear s).bemf = s.bemf := rfl
@[simp] theorem rampClear_adc : (rampClear s).adc = s.adc := rfl
@[simp] theorem rampClear_comm : (rampClear s).comm = s.comm := rfl
@[simp] theorem rampClear_inv : (rampClear s).inv = s.inv := rfl
@[simp] theorem rampClear_sched : (rampClear s).sched = s.sched := rfl
@[simp] theorem rampClear_ramp :
    (rampClear s).ramp =
      { active := false, owner := .host, dir := .cw, step := 0, elapsed := 0, lastDelay := 0, freq := f32Zero,
        duty := f32Zero, doneCount := s.ramp.doneCount, ctx := RampCtx.clear } := rfl
@[simp] theorem rampClear_ho : (rampClear s).ho = s.ho := rfl
@[simp] theorem rampClear_speed : (rampClear s).speed = s.speed := rfl
@[simp] theorem rampClear_pid : (rampClear s).pid = s.pid := rfl
@[simp] theorem rampClear_env : (rampClear s).env = s.env := rfl

@[simp] theorem pidReset_inst : (pidReset s).inst = s.inst := rfl
@[simp] theorem pidReset_iface : (pidReset s).iface = s.iface := rfl
@[simp] theorem pidReset_cfg : (pidReset s).cfg = s.cfg := rfl
@[simp] theorem pidReset_ctl : (pidReset s).ctl = s.ctl := rfl
@[simp] theorem pidReset_bemf : (pidReset s).bemf = s.bemf := rfl
@[simp] theorem pidReset_adc : (pidReset s).adc = s.adc := rfl
@[simp] theorem pidReset_comm : (pidReset s).comm = s.comm := rfl
@[simp] theorem pidReset_inv : (pidReset s).inv = s.inv := rfl
@[simp] theorem pidReset_sched : (pidReset s).sched = s.sched := rfl
@[simp] theorem pidReset_ramp : (pidReset s).ramp = s.ramp := rfl
@[simp] theorem pidReset_ho : (pidReset s).ho = s.ho := rfl
@[simp] theorem pidReset_speed : (pidReset s).speed = s.speed := rfl
@[simp] theorem pidReset_pid :
    (pidReset s).pid = { integ := f32Zero, prevErr := f32Zero, lastOut := f32Zero } := rfl
@[simp] theorem pidReset_env : (pidReset s).env = s.env := rfl

@[simp] theorem clearRun_inst (c : StopCause) : (clearRun c s).inst = s.inst := rfl
@[simp] theorem clearRun_iface (c : StopCause) : (clearRun c s).iface = s.iface := rfl
@[simp] theorem clearRun_cfg (c : StopCause) : (clearRun c s).cfg = s.cfg := rfl
@[simp] theorem clearRun_ctl (c : StopCause) :
    (clearRun c s).ctl = { s.ctl with mode := .stopped, aligning := false, stopCause := c } := rfl
@[simp] theorem clearRun_bemf (c : StopCause) : (clearRun c s).bemf = s.bemf := rfl
@[simp] theorem clearRun_adc (c : StopCause) : (clearRun c s).adc = s.adc := rfl
@[simp] theorem clearRun_comm (c : StopCause) :
    (clearRun c s).comm = { s.comm with armed := false, transition := false, handoverArmed := false } := rfl
@[simp] theorem clearRun_inv (c : StopCause) : (clearRun c s).inv = s.inv := rfl
@[simp] theorem clearRun_sched (c : StopCause) : (clearRun c s).sched = s.sched := rfl
@[simp] theorem clearRun_ramp (c : StopCause) : (clearRun c s).ramp = s.ramp := rfl
@[simp] theorem clearRun_ho (c : StopCause) :
    (clearRun c s).ho = { s.ho with streak := 0 } := rfl
@[simp] theorem clearRun_speed (c : StopCause) :
    (clearRun c s).speed = { s.speed with
        cmd := f32Zero, target := f32Zero, meas := f32Zero, duty := f32Zero, reversePending := false,
        revBuf := f32Zero } := rfl
@[simp] theorem clearRun_pid (c : StopCause) : (clearRun c s).pid = s.pid := rfl
@[simp] theorem clearRun_env (c : StopCause) : (clearRun c s).env = s.env := rfl

@[simp] theorem enterAlignment_inst : (enterAlignment s).inst = s.inst := rfl
@[simp] theorem enterAlignment_iface : (enterAlignment s).iface = s.iface := rfl
@[simp] theorem enterAlignment_cfg : (enterAlignment s).cfg = s.cfg := rfl
@[simp] theorem enterAlignment_ctl :
    (enterAlignment s).ctl = { s.ctl with mode := .openLoop, aligning := true } := rfl
@[simp] theorem enterAlignment_bemf : (enterAlignment s).bemf = s.bemf := rfl
@[simp] theorem enterAlignment_adc : (enterAlignment s).adc = s.adc := rfl
@[simp] theorem enterAlignment_comm :
    (enterAlignment s).comm = { s.comm with armed := false, transition := false, handoverArmed := false } := rfl
@[simp] theorem enterAlignment_inv : (enterAlignment s).inv = s.inv := rfl
@[simp] theorem enterAlignment_sched : (enterAlignment s).sched = s.sched := rfl
@[simp] theorem enterAlignment_ramp : (enterAlignment s).ramp = s.ramp := rfl
@[simp] theorem enterAlignment_ho :
    (enterAlignment s).ho = { s.ho with streak := 0 } := rfl
@[simp] theorem enterAlignment_speed :
    (enterAlignment s).speed = { s.speed with meas := f32Zero, target := f32Zero } := rfl
@[simp] theorem enterAlignment_pid : (enterAlignment s).pid = s.pid := rfl
@[simp] theorem enterAlignment_env : (enterAlignment s).env = s.env := rfl

@[simp] theorem openRamp_inst (o : Owner) (d : Dir) : (openRamp o d s).inst = s.inst := rfl
@[simp] theorem openRamp_iface (o : Owner) (d : Dir) : (openRamp o d s).iface = s.iface := rfl
@[simp] theorem openRamp_cfg (o : Owner) (d : Dir) : (openRamp o d s).cfg = s.cfg := rfl
@[simp] theorem openRamp_ctl (o : Owner) (d : Dir) : (openRamp o d s).ctl = s.ctl := rfl
@[simp] theorem openRamp_bemf (o : Owner) (d : Dir) : (openRamp o d s).bemf = s.bemf := rfl
@[simp] theorem openRamp_adc (o : Owner) (d : Dir) : (openRamp o d s).adc = s.adc := rfl
@[simp] theorem openRamp_comm (o : Owner) (d : Dir) : (openRamp o d s).comm = s.comm := rfl
@[simp] theorem openRamp_inv (o : Owner) (d : Dir) : (openRamp o d s).inv = s.inv := rfl
@[simp] theorem openRamp_sched (o : Owner) (d : Dir) : (openRamp o d s).sched = s.sched := rfl
@[simp] theorem openRamp_ramp (o : Owner) (d : Dir) :
    (openRamp o d s).ramp = { s.ramp with
        ctx := rampCopies s.cfg, step := 0, elapsed := 0, freq := (rampCopies s.cfg).fs,
        duty := (rampCopies s.cfg).ds, owner := o, dir := d, active := true } := rfl
@[simp] theorem openRamp_ho (o : Owner) (d : Dir) : (openRamp o d s).ho = s.ho := rfl
@[simp] theorem openRamp_speed (o : Owner) (d : Dir) : (openRamp o d s).speed = s.speed := rfl
@[simp] theorem openRamp_pid (o : Owner) (d : Dir) : (openRamp o d s).pid = s.pid := rfl
@[simp] theorem openRamp_env (o : Owner) (d : Dir) : (openRamp o d s).env = s.env := rfl

@[simp] theorem scheduleStep_inst (t d : Word) : (scheduleStep t d s).inst = s.inst := rfl
@[simp] theorem scheduleStep_iface (t d : Word) : (scheduleStep t d s).iface = s.iface := rfl
@[simp] theorem scheduleStep_cfg (t d : Word) : (scheduleStep t d s).cfg = s.cfg := rfl
@[simp] theorem scheduleStep_ctl (t d : Word) : (scheduleStep t d s).ctl = s.ctl := rfl
@[simp] theorem scheduleStep_bemf (t d : Word) : (scheduleStep t d s).bemf = s.bemf := rfl
@[simp] theorem scheduleStep_adc (t d : Word) : (scheduleStep t d s).adc = s.adc := rfl
@[simp] theorem scheduleStep_comm (t d : Word) : (scheduleStep t d s).comm = s.comm := rfl
@[simp] theorem scheduleStep_inv (t d : Word) : (scheduleStep t d s).inv = s.inv := rfl
@[simp] theorem scheduleStep_sched (t d : Word) :
    (scheduleStep t d s).sched = { s.sched with active := true, deadline := t + d, tag := .rampStep } := rfl
@[simp] theorem scheduleStep_ramp (t d : Word) :
    (scheduleStep t d s).ramp = { s.ramp with lastDelay := d } := rfl
@[simp] theorem scheduleStep_ho (t d : Word) : (scheduleStep t d s).ho = s.ho := rfl
@[simp] theorem scheduleStep_speed (t d : Word) : (scheduleStep t d s).speed = s.speed := rfl
@[simp] theorem scheduleStep_pid (t d : Word) : (scheduleStep t d s).pid = s.pid := rfl
@[simp] theorem scheduleStep_env (t d : Word) : (scheduleStep t d s).env = s.env := rfl

@[simp] theorem advanceRamp_inst (f d : F32) : (advanceRamp f d s).inst = s.inst := rfl
@[simp] theorem advanceRamp_iface (f d : F32) : (advanceRamp f d s).iface = s.iface := rfl
@[simp] theorem advanceRamp_cfg (f d : F32) : (advanceRamp f d s).cfg = s.cfg := rfl
@[simp] theorem advanceRamp_ctl (f d : F32) : (advanceRamp f d s).ctl = s.ctl := rfl
@[simp] theorem advanceRamp_bemf (f d : F32) : (advanceRamp f d s).bemf = s.bemf := rfl
@[simp] theorem advanceRamp_adc (f d : F32) : (advanceRamp f d s).adc = s.adc := rfl
@[simp] theorem advanceRamp_comm (f d : F32) : (advanceRamp f d s).comm = s.comm := rfl
@[simp] theorem advanceRamp_inv (f d : F32) : (advanceRamp f d s).inv = s.inv := rfl
@[simp] theorem advanceRamp_sched (f d : F32) : (advanceRamp f d s).sched = s.sched := rfl
@[simp] theorem advanceRamp_ramp (f d : F32) :
    (advanceRamp f d s).ramp = { s.ramp with freq := f, duty := d, step := s.ramp.step + 1 } := rfl
@[simp] theorem advanceRamp_ho (f d : F32) : (advanceRamp f d s).ho = s.ho := rfl
@[simp] theorem advanceRamp_speed (f d : F32) : (advanceRamp f d s).speed = s.speed := rfl
@[simp] theorem advanceRamp_pid (f d : F32) : (advanceRamp f d s).pid = s.pid := rfl
@[simp] theorem advanceRamp_env (f d : F32) : (advanceRamp f d s).env = s.env := rfl

@[simp] theorem deactivateRamp_inst : (deactivateRamp s).inst = s.inst := rfl
@[simp] theorem deactivateRamp_iface : (deactivateRamp s).iface = s.iface := rfl
@[simp] theorem deactivateRamp_cfg : (deactivateRamp s).cfg = s.cfg := rfl
@[simp] theorem deactivateRamp_ctl : (deactivateRamp s).ctl = s.ctl := rfl
@[simp] theorem deactivateRamp_bemf : (deactivateRamp s).bemf = s.bemf := rfl
@[simp] theorem deactivateRamp_adc : (deactivateRamp s).adc = s.adc := rfl
@[simp] theorem deactivateRamp_comm : (deactivateRamp s).comm = s.comm := rfl
@[simp] theorem deactivateRamp_inv : (deactivateRamp s).inv = s.inv := rfl
@[simp] theorem deactivateRamp_sched : (deactivateRamp s).sched = s.sched := rfl
@[simp] theorem deactivateRamp_ramp :
    (deactivateRamp s).ramp = { s.ramp with active := false } := rfl
@[simp] theorem deactivateRamp_ho : (deactivateRamp s).ho = s.ho := rfl
@[simp] theorem deactivateRamp_speed : (deactivateRamp s).speed = s.speed := rfl
@[simp] theorem deactivateRamp_pid : (deactivateRamp s).pid = s.pid := rfl
@[simp] theorem deactivateRamp_env : (deactivateRamp s).env = s.env := rfl

@[simp] theorem countRamp_inst : (countRamp s).inst = s.inst := rfl
@[simp] theorem countRamp_iface : (countRamp s).iface = s.iface := rfl
@[simp] theorem countRamp_cfg : (countRamp s).cfg = s.cfg := rfl
@[simp] theorem countRamp_ctl : (countRamp s).ctl = s.ctl := rfl
@[simp] theorem countRamp_bemf : (countRamp s).bemf = s.bemf := rfl
@[simp] theorem countRamp_adc : (countRamp s).adc = s.adc := rfl
@[simp] theorem countRamp_comm : (countRamp s).comm = s.comm := rfl
@[simp] theorem countRamp_inv : (countRamp s).inv = s.inv := rfl
@[simp] theorem countRamp_sched : (countRamp s).sched = s.sched := rfl
@[simp] theorem countRamp_ramp :
    (countRamp s).ramp = { s.ramp with doneCount := inc32 s.ramp.doneCount } := rfl
@[simp] theorem countRamp_ho : (countRamp s).ho = s.ho := rfl
@[simp] theorem countRamp_speed : (countRamp s).speed = s.speed := rfl
@[simp] theorem countRamp_pid : (countRamp s).pid = s.pid := rfl
@[simp] theorem countRamp_env : (countRamp s).env = s.env := rfl

@[simp] theorem addElapsed_inst : (addElapsed s).inst = s.inst := rfl
@[simp] theorem addElapsed_iface : (addElapsed s).iface = s.iface := rfl
@[simp] theorem addElapsed_cfg : (addElapsed s).cfg = s.cfg := rfl
@[simp] theorem addElapsed_ctl : (addElapsed s).ctl = s.ctl := rfl
@[simp] theorem addElapsed_bemf : (addElapsed s).bemf = s.bemf := rfl
@[simp] theorem addElapsed_adc : (addElapsed s).adc = s.adc := rfl
@[simp] theorem addElapsed_comm : (addElapsed s).comm = s.comm := rfl
@[simp] theorem addElapsed_inv : (addElapsed s).inv = s.inv := rfl
@[simp] theorem addElapsed_sched : (addElapsed s).sched = s.sched := rfl
@[simp] theorem addElapsed_ramp :
    (addElapsed s).ramp = { s.ramp with elapsed := satadd32 s.ramp.elapsed s.ramp.lastDelay } := rfl
@[simp] theorem addElapsed_ho : (addElapsed s).ho = s.ho := rfl
@[simp] theorem addElapsed_speed : (addElapsed s).speed = s.speed := rfl
@[simp] theorem addElapsed_pid : (addElapsed s).pid = s.pid := rfl
@[simp] theorem addElapsed_env : (addElapsed s).env = s.env := rfl

@[simp] theorem endAlignment_inst : (endAlignment s).inst = s.inst := rfl
@[simp] theorem endAlignment_iface : (endAlignment s).iface = s.iface := rfl
@[simp] theorem endAlignment_cfg : (endAlignment s).cfg = s.cfg := rfl
@[simp] theorem endAlignment_ctl :
    (endAlignment s).ctl = { s.ctl with aligning := false } := rfl
@[simp] theorem endAlignment_bemf : (endAlignment s).bemf = s.bemf := rfl
@[simp] theorem endAlignment_adc : (endAlignment s).adc = s.adc := rfl
@[simp] theorem endAlignment_comm : (endAlignment s).comm = s.comm := rfl
@[simp] theorem endAlignment_inv : (endAlignment s).inv = s.inv := rfl
@[simp] theorem endAlignment_sched : (endAlignment s).sched = s.sched := rfl
@[simp] theorem endAlignment_ramp : (endAlignment s).ramp = s.ramp := rfl
@[simp] theorem endAlignment_ho : (endAlignment s).ho = s.ho := rfl
@[simp] theorem endAlignment_speed : (endAlignment s).speed = s.speed := rfl
@[simp] theorem endAlignment_pid : (endAlignment s).pid = s.pid := rfl
@[simp] theorem endAlignment_env : (endAlignment s).env = s.env := rfl

@[simp] theorem captureRamp_inst : (captureRamp s).inst = s.inst := rfl
@[simp] theorem captureRamp_iface : (captureRamp s).iface = s.iface := rfl
@[simp] theorem captureRamp_cfg : (captureRamp s).cfg = s.cfg := rfl
@[simp] theorem captureRamp_ctl : (captureRamp s).ctl = s.ctl := rfl
@[simp] theorem captureRamp_bemf : (captureRamp s).bemf = s.bemf := rfl
@[simp] theorem captureRamp_adc : (captureRamp s).adc = s.adc := rfl
@[simp] theorem captureRamp_comm :
    (captureRamp s).comm = { s.comm with transition := true } := rfl
@[simp] theorem captureRamp_inv : (captureRamp s).inv = s.inv := rfl
@[simp] theorem captureRamp_sched : (captureRamp s).sched = s.sched := rfl
@[simp] theorem captureRamp_ramp : (captureRamp s).ramp = s.ramp := rfl
@[simp] theorem captureRamp_ho :
    (captureRamp s).ho = { s.ho with
        step := s.ramp.step, dir := s.ramp.dir, duty := F32.maxf s.ramp.duty (F32.ofWord s.cfg.clDutyFloor) } := rfl
@[simp] theorem captureRamp_speed : (captureRamp s).speed = s.speed := rfl
@[simp] theorem captureRamp_pid : (captureRamp s).pid = s.pid := rfl
@[simp] theorem captureRamp_env : (captureRamp s).env = s.env := rfl

@[simp] theorem setStreak_inst (n : Half) : (setStreak n s).inst = s.inst := rfl
@[simp] theorem setStreak_iface (n : Half) : (setStreak n s).iface = s.iface := rfl
@[simp] theorem setStreak_cfg (n : Half) : (setStreak n s).cfg = s.cfg := rfl
@[simp] theorem setStreak_ctl (n : Half) : (setStreak n s).ctl = s.ctl := rfl
@[simp] theorem setStreak_bemf (n : Half) : (setStreak n s).bemf = s.bemf := rfl
@[simp] theorem setStreak_adc (n : Half) : (setStreak n s).adc = s.adc := rfl
@[simp] theorem setStreak_comm (n : Half) : (setStreak n s).comm = s.comm := rfl
@[simp] theorem setStreak_inv (n : Half) : (setStreak n s).inv = s.inv := rfl
@[simp] theorem setStreak_sched (n : Half) : (setStreak n s).sched = s.sched := rfl
@[simp] theorem setStreak_ramp (n : Half) : (setStreak n s).ramp = s.ramp := rfl
@[simp] theorem setStreak_ho (n : Half) :
    (setStreak n s).ho = { s.ho with streak := n } := rfl
@[simp] theorem setStreak_speed (n : Half) : (setStreak n s).speed = s.speed := rfl
@[simp] theorem setStreak_pid (n : Half) : (setStreak n s).pid = s.pid := rfl
@[simp] theorem setStreak_env (n : Half) : (setStreak n s).env = s.env := rfl

@[simp] theorem applyReversal_inst (v : F32) : (applyReversal v s).inst = s.inst := rfl
@[simp] theorem applyReversal_iface (v : F32) : (applyReversal v s).iface = s.iface := rfl
@[simp] theorem applyReversal_cfg (v : F32) : (applyReversal v s).cfg = s.cfg := rfl
@[simp] theorem applyReversal_ctl (v : F32) : (applyReversal v s).ctl = s.ctl := rfl
@[simp] theorem applyReversal_bemf (v : F32) : (applyReversal v s).bemf = s.bemf := rfl
@[simp] theorem applyReversal_adc (v : F32) : (applyReversal v s).adc = s.adc := rfl
@[simp] theorem applyReversal_comm (v : F32) : (applyReversal v s).comm = s.comm := rfl
@[simp] theorem applyReversal_inv (v : F32) : (applyReversal v s).inv = s.inv := rfl
@[simp] theorem applyReversal_sched (v : F32) : (applyReversal v s).sched = s.sched := rfl
@[simp] theorem applyReversal_ramp (v : F32) : (applyReversal v s).ramp = s.ramp := rfl
@[simp] theorem applyReversal_ho (v : F32) : (applyReversal v s).ho = s.ho := rfl
@[simp] theorem applyReversal_speed (v : F32) :
    (applyReversal v s).speed = { s.speed with motorDir := flipDir s.speed.motorDir, cmd := v } := rfl
@[simp] theorem applyReversal_pid (v : F32) : (applyReversal v s).pid = s.pid := rfl
@[simp] theorem applyReversal_env (v : F32) : (applyReversal v s).env = s.env := rfl

@[simp] theorem rampTarget_inst : (rampTarget s).inst = s.inst := rfl
@[simp] theorem rampTarget_iface : (rampTarget s).iface = s.iface := rfl
@[simp] theorem rampTarget_cfg : (rampTarget s).cfg = s.cfg := rfl
@[simp] theorem rampTarget_ctl : (rampTarget s).ctl = s.ctl := rfl
@[simp] theorem rampTarget_bemf : (rampTarget s).bemf = s.bemf := rfl
@[simp] theorem rampTarget_adc : (rampTarget s).adc = s.adc := rfl
@[simp] theorem rampTarget_comm : (rampTarget s).comm = s.comm := rfl
@[simp] theorem rampTarget_inv : (rampTarget s).inv = s.inv := rfl
@[simp] theorem rampTarget_sched : (rampTarget s).sched = s.sched := rfl
@[simp] theorem rampTarget_ramp : (rampTarget s).ramp = s.ramp := rfl
@[simp] theorem rampTarget_ho : (rampTarget s).ho = s.ho := rfl
@[simp] theorem rampTarget_pid : (rampTarget s).pid = s.pid := rfl
@[simp] theorem rampTarget_env : (rampTarget s).env = s.env := rfl

@[simp] theorem commandSpeed_inst (v : F32) : (commandSpeed v s).inst = s.inst := rfl
@[simp] theorem commandSpeed_iface (v : F32) : (commandSpeed v s).iface = s.iface := rfl
@[simp] theorem commandSpeed_cfg (v : F32) : (commandSpeed v s).cfg = s.cfg := rfl
@[simp] theorem commandSpeed_ctl (v : F32) : (commandSpeed v s).ctl = s.ctl := rfl
@[simp] theorem commandSpeed_bemf (v : F32) : (commandSpeed v s).bemf = s.bemf := rfl
@[simp] theorem commandSpeed_adc (v : F32) : (commandSpeed v s).adc = s.adc := rfl
@[simp] theorem commandSpeed_comm (v : F32) : (commandSpeed v s).comm = s.comm := rfl
@[simp] theorem commandSpeed_inv (v : F32) : (commandSpeed v s).inv = s.inv := rfl
@[simp] theorem commandSpeed_sched (v : F32) : (commandSpeed v s).sched = s.sched := rfl
@[simp] theorem commandSpeed_ramp (v : F32) : (commandSpeed v s).ramp = s.ramp := rfl
@[simp] theorem commandSpeed_ho (v : F32) : (commandSpeed v s).ho = s.ho := rfl
@[simp] theorem commandSpeed_speed (v : F32) :
    (commandSpeed v s).speed = { s.speed with cmd := v, reversePending := false, revBuf := f32Zero } := rfl
@[simp] theorem commandSpeed_pid (v : F32) : (commandSpeed v s).pid = s.pid := rfl
@[simp] theorem commandSpeed_env (v : F32) : (commandSpeed v s).env = s.env := rfl

@[simp] theorem bufferReversal_inst (v : F32) : (bufferReversal v s).inst = s.inst := rfl
@[simp] theorem bufferReversal_iface (v : F32) : (bufferReversal v s).iface = s.iface := rfl
@[simp] theorem bufferReversal_cfg (v : F32) : (bufferReversal v s).cfg = s.cfg := rfl
@[simp] theorem bufferReversal_ctl (v : F32) : (bufferReversal v s).ctl = s.ctl := rfl
@[simp] theorem bufferReversal_bemf (v : F32) : (bufferReversal v s).bemf = s.bemf := rfl
@[simp] theorem bufferReversal_adc (v : F32) : (bufferReversal v s).adc = s.adc := rfl
@[simp] theorem bufferReversal_comm (v : F32) : (bufferReversal v s).comm = s.comm := rfl
@[simp] theorem bufferReversal_inv (v : F32) : (bufferReversal v s).inv = s.inv := rfl
@[simp] theorem bufferReversal_sched (v : F32) : (bufferReversal v s).sched = s.sched := rfl
@[simp] theorem bufferReversal_ramp (v : F32) : (bufferReversal v s).ramp = s.ramp := rfl
@[simp] theorem bufferReversal_ho (v : F32) : (bufferReversal v s).ho = s.ho := rfl
@[simp] theorem bufferReversal_speed (v : F32) :
    (bufferReversal v s).speed = { s.speed with cmd := f32Zero, revBuf := v, reversePending := true } := rfl
@[simp] theorem bufferReversal_pid (v : F32) : (bufferReversal v s).pid = s.pid := rfl
@[simp] theorem bufferReversal_env (v : F32) : (bufferReversal v s).env = s.env := rfl

@[simp] theorem countUser_inst : (countUser s).inst = s.inst := rfl
@[simp] theorem countUser_iface : (countUser s).iface = s.iface := rfl
@[simp] theorem countUser_cfg : (countUser s).cfg = s.cfg := rfl
@[simp] theorem countUser_ctl : (countUser s).ctl = s.ctl := rfl
@[simp] theorem countUser_bemf : (countUser s).bemf = s.bemf := rfl
@[simp] theorem countUser_adc : (countUser s).adc = s.adc := rfl
@[simp] theorem countUser_comm : (countUser s).comm = s.comm := rfl
@[simp] theorem countUser_inv : (countUser s).inv = s.inv := rfl
@[simp] theorem countUser_sched :
    (countUser s).sched = { s.sched with userFired := inc32 s.sched.userFired } := rfl
@[simp] theorem countUser_ramp : (countUser s).ramp = s.ramp := rfl
@[simp] theorem countUser_ho : (countUser s).ho = s.ho := rfl
@[simp] theorem countUser_speed : (countUser s).speed = s.speed := rfl
@[simp] theorem countUser_pid : (countUser s).pid = s.pid := rfl
@[simp] theorem countUser_env : (countUser s).env = s.env := rfl

@[simp] theorem respond_inst (v : Word) (e : Bool) : (respond v e s).inst = s.inst := rfl
@[simp] theorem respond_iface (v : Word) (e : Bool) : (respond v e s).iface = s.iface := rfl
@[simp] theorem respond_cfg (v : Word) (e : Bool) : (respond v e s).cfg = s.cfg := rfl
@[simp] theorem respond_ctl (v : Word) (e : Bool) : (respond v e s).ctl = s.ctl := rfl
@[simp] theorem respond_bemf (v : Word) (e : Bool) : (respond v e s).bemf = s.bemf := rfl
@[simp] theorem respond_adc (v : Word) (e : Bool) : (respond v e s).adc = s.adc := rfl
@[simp] theorem respond_comm (v : Word) (e : Bool) : (respond v e s).comm = s.comm := rfl
@[simp] theorem respond_inv (v : Word) (e : Bool) : (respond v e s).inv = s.inv := rfl
@[simp] theorem respond_sched (v : Word) (e : Bool) : (respond v e s).sched = s.sched := rfl
@[simp] theorem respond_ramp (v : Word) (e : Bool) : (respond v e s).ramp = s.ramp := rfl
@[simp] theorem respond_ho (v : Word) (e : Bool) : (respond v e s).ho = s.ho := rfl
@[simp] theorem respond_speed (v : Word) (e : Bool) : (respond v e s).speed = s.speed := rfl
@[simp] theorem respond_pid (v : Word) (e : Bool) : (respond v e s).pid = s.pid := rfl
@[simp] theorem respond_env (v : Word) (e : Bool) :
    (respond v e s).env = { s.env with resp := { data := v, error := e } } := rfl

@[simp] theorem takeInput_inst (t : Word) (l : List InputRecord) : (takeInput t l s).inst = s.inst := rfl
@[simp] theorem takeInput_iface (t : Word) (l : List InputRecord) : (takeInput t l s).iface = s.iface := rfl
@[simp] theorem takeInput_cfg (t : Word) (l : List InputRecord) : (takeInput t l s).cfg = s.cfg := rfl
@[simp] theorem takeInput_ctl (t : Word) (l : List InputRecord) : (takeInput t l s).ctl = s.ctl := rfl
@[simp] theorem takeInput_bemf (t : Word) (l : List InputRecord) : (takeInput t l s).bemf = s.bemf := rfl
@[simp] theorem takeInput_adc (t : Word) (l : List InputRecord) : (takeInput t l s).adc = s.adc := rfl
@[simp] theorem takeInput_comm (t : Word) (l : List InputRecord) : (takeInput t l s).comm = s.comm := rfl
@[simp] theorem takeInput_inv (t : Word) (l : List InputRecord) : (takeInput t l s).inv = s.inv := rfl
@[simp] theorem takeInput_sched (t : Word) (l : List InputRecord) : (takeInput t l s).sched = s.sched := rfl
@[simp] theorem takeInput_ramp (t : Word) (l : List InputRecord) : (takeInput t l s).ramp = s.ramp := rfl
@[simp] theorem takeInput_ho (t : Word) (l : List InputRecord) : (takeInput t l s).ho = s.ho := rfl
@[simp] theorem takeInput_speed (t : Word) (l : List InputRecord) : (takeInput t l s).speed = s.speed := rfl
@[simp] theorem takeInput_pid (t : Word) (l : List InputRecord) : (takeInput t l s).pid = s.pid := rfl
@[simp] theorem takeInput_env (t : Word) (l : List InputRecord) :
    (takeInput t l s).env = { s.env with inputs := l, time := t, started := true } := rfl

@[simp] theorem safetyStop_inst (c : StopCause) : (safetyStop c s).inst = s.inst := by simp [safetyStop]
@[simp] theorem safetyStop_iface (c : StopCause) : (safetyStop c s).iface = s.iface := by simp [safetyStop]
@[simp] theorem safetyStop_cfg (c : StopCause) : (safetyStop c s).cfg = s.cfg := by simp [safetyStop]
@[simp] theorem safetyStop_ctl (c : StopCause) :
    (safetyStop c s).ctl = { s.ctl with mode := .stopped, aligning := false, stopCause := c } := by simp [safetyStop]
@[simp] theorem safetyStop_bemf (c : StopCause) : (safetyStop c s).bemf = s.bemf := by simp [safetyStop]
@[simp] theorem safetyStop_adc (c : StopCause) : (safetyStop c s).adc = s.adc := by simp [safetyStop]
@[simp] theorem safetyStop_comm (c : StopCause) :
    (safetyStop c s).comm = { s.comm with armed := false, transition := false, handoverArmed := false } := by
    simp [safetyStop]
@[simp] theorem safetyStop_inv (c : StopCause) :
    (safetyStop c s).inv = { s.inv with ph := ⟨.hiZ, .hiZ, .hiZ⟩ } := by simp [safetyStop]
@[simp] theorem safetyStop_sched (c : StopCause) :
    (safetyStop c s).sched = { s.sched with active := false, tag := .none } := by simp [safetyStop]
@[simp] theorem safetyStop_ramp (c : StopCause) :
    (safetyStop c s).ramp =
      { active := false, owner := .host, dir := .cw, step := 0, elapsed := 0, lastDelay := 0, freq := f32Zero,
        duty := f32Zero, doneCount := s.ramp.doneCount, ctx := RampCtx.clear } := by simp [safetyStop]
@[simp] theorem safetyStop_ho (c : StopCause) :
    (safetyStop c s).ho = { s.ho with streak := 0 } := by simp [safetyStop]
@[simp] theorem safetyStop_speed (c : StopCause) :
    (safetyStop c s).speed = { s.speed with
        cmd := f32Zero, target := f32Zero, meas := f32Zero, duty := f32Zero, reversePending := false,
        revBuf := f32Zero } := by simp [safetyStop]
@[simp] theorem safetyStop_pid (c : StopCause) : (safetyStop c s).pid = s.pid := by simp [safetyStop]
@[simp] theorem safetyStop_env (c : StopCause) : (safetyStop c s).env = s.env := by simp [safetyStop]

@[simp] theorem startRun_inst (t : Word) : (startRun t s).inst = s.inst := by simp [startRun]
@[simp] theorem startRun_iface (t : Word) : (startRun t s).iface = s.iface := by simp [startRun]
@[simp] theorem startRun_cfg (t : Word) : (startRun t s).cfg = s.cfg := by simp [startRun]
@[simp] theorem startRun_ctl (t : Word) :
    (startRun t s).ctl = { s.ctl with mode := .openLoop, aligning := true } := by simp [startRun]
@[simp] theorem startRun_bemf (t : Word) : (startRun t s).bemf = s.bemf := by simp [startRun]
@[simp] theorem startRun_adc (t : Word) : (startRun t s).adc = s.adc := by simp [startRun]
@[simp] theorem startRun_comm (t : Word) :
    (startRun t s).comm = { s.comm with
        step := s.cfg.alignStep, dir := s.speed.motorDir, float := floatOf s.cfg.alignStep s.speed.motorDir,
        duty := F32.ofWord s.cfg.alignDuty, count := inc32 s.comm.count, lastComm := t, armed := false,
        transition := false, handoverArmed := false } := by simp [startRun]
@[simp] theorem startRun_inv (t : Word) :
    (startRun t s).inv =
      { ph := drivePattern s.inst.phaseMap s.cfg.alignStep s.speed.motorDir s.inv.ph,
        duty := F32.ofWord s.cfg.alignDuty } := by simp [startRun]
@[simp] theorem startRun_sched (t : Word) :
    (startRun t s).sched = { s.sched with active := true, deadline := t + s.cfg.alignTimeUs, tag := .alignDone } := by
    simp [startRun]
@[simp] theorem startRun_ramp (t : Word) :
    (startRun t s).ramp =
      { active := false, owner := .host, dir := .cw, step := 0, elapsed := 0, lastDelay := 0, freq := f32Zero,
        duty := f32Zero, doneCount := s.ramp.doneCount, ctx := RampCtx.clear } := by simp [startRun]
@[simp] theorem startRun_ho (t : Word) :
    (startRun t s).ho = { s.ho with streak := 0 } := by simp [startRun]
@[simp] theorem startRun_speed (t : Word) :
    (startRun t s).speed = { s.speed with meas := f32Zero, target := f32Zero } := by simp [startRun]
@[simp] theorem startRun_pid (t : Word) :
    (startRun t s).pid = { integ := f32Zero, prevErr := f32Zero, lastOut := f32Zero } := by simp [startRun]
@[simp] theorem startRun_env (t : Word) : (startRun t s).env = s.env := by simp [startRun]

@[simp] theorem rampStart_inst (t : Word) (o : Owner) (d : Dir) : (rampStart t o d s).inst = s.inst := by
    simp [rampStart]
@[simp] theorem rampStart_iface (t : Word) (o : Owner) (d : Dir) : (rampStart t o d s).iface = s.iface := by
    simp [rampStart]
@[simp] theorem rampStart_cfg (t : Word) (o : Owner) (d : Dir) : (rampStart t o d s).cfg = s.cfg := by
    simp [rampStart]
@[simp] theorem rampStart_ctl (t : Word) (o : Owner) (d : Dir) : (rampStart t o d s).ctl = s.ctl := by
    simp [rampStart]
@[simp] theorem rampStart_bemf (t : Word) (o : Owner) (d : Dir) : (rampStart t o d s).bemf = s.bemf := by
    simp [rampStart]
@[simp] theorem rampStart_adc (t : Word) (o : Owner) (d : Dir) : (rampStart t o d s).adc = s.adc := by
    simp [rampStart]
@[simp] theorem rampStart_comm (t : Word) (o : Owner) (d : Dir) :
    (rampStart t o d s).comm = { s.comm with
        step := 0, dir := d, float := floatOf 0 d, duty := (rampCopies s.cfg).ds, count := inc32 s.comm.count,
        lastComm := t } := by simp [rampStart]
@[simp] theorem rampStart_inv (t : Word) (o : Owner) (d : Dir) :
    (rampStart t o d s).inv = { ph := drivePattern s.inst.phaseMap 0 d s.inv.ph, duty := (rampCopies s.cfg).ds } := by
    simp [rampStart]
@[simp] theorem rampStart_sched (t : Word) (o : Owner) (d : Dir) :
    (rampStart t o d s).sched = { s.sched with
        active := true, tag := .rampStep, deadline := t + rampDelay s.cfg (rampCopies s.cfg).fs } := by
    simp [rampStart]
@[simp] theorem rampStart_ramp (t : Word) (o : Owner) (d : Dir) :
    (rampStart t o d s).ramp = { s.ramp with
        ctx := rampCopies s.cfg, step := 0, elapsed := 0, freq := (rampCopies s.cfg).fs,
        duty := (rampCopies s.cfg).ds, owner := o, dir := d, active := true,
        lastDelay := rampDelay s.cfg (rampCopies s.cfg).fs } := by simp [rampStart]
@[simp] theorem rampStart_ho (t : Word) (o : Owner) (d : Dir) : (rampStart t o d s).ho = s.ho := by simp [rampStart]
@[simp] theorem rampStart_speed (t : Word) (o : Owner) (d : Dir) : (rampStart t o d s).speed = s.speed := by
    simp [rampStart]
@[simp] theorem rampStart_pid (t : Word) (o : Owner) (d : Dir) : (rampStart t o d s).pid = s.pid := by
    simp [rampStart]
@[simp] theorem rampStart_env (t : Word) (o : Owner) (d : Dir) : (rampStart t o d s).env = s.env := by
    simp [rampStart]

@[simp] theorem advance_inst (t : Word) (f d : F32) : (advance t f d s).inst = s.inst := by simp [advance]
@[simp] theorem advance_iface (t : Word) (f d : F32) : (advance t f d s).iface = s.iface := by simp [advance]
@[simp] theorem advance_cfg (t : Word) (f d : F32) : (advance t f d s).cfg = s.cfg := by simp [advance]
@[simp] theorem advance_ctl (t : Word) (f d : F32) : (advance t f d s).ctl = s.ctl := by simp [advance]
@[simp] theorem advance_bemf (t : Word) (f d : F32) : (advance t f d s).bemf = s.bemf := by simp [advance]
@[simp] theorem advance_adc (t : Word) (f d : F32) : (advance t f d s).adc = s.adc := by simp [advance]
@[simp] theorem advance_comm (t : Word) (f d : F32) :
    (advance t f d s).comm = { s.comm with
        step := s.ramp.step + 1, dir := s.ramp.dir, float := floatOf (s.ramp.step + 1) s.ramp.dir, duty := d,
        count := inc32 s.comm.count, lastComm := t } := by simp [advance]
@[simp] theorem advance_inv (t : Word) (f d : F32) :
    (advance t f d s).inv = { ph := drivePattern s.inst.phaseMap (s.ramp.step + 1) s.ramp.dir s.inv.ph, duty := d } := by
    simp [advance]
@[simp] theorem advance_sched (t : Word) (f d : F32) :
    (advance t f d s).sched = { s.sched with active := true, deadline := t + rampDelay s.cfg f, tag := .rampStep } := by
    simp [advance]
@[simp] theorem advance_ramp (t : Word) (f d : F32) :
    (advance t f d s).ramp = { s.ramp with
        freq := f, duty := d, step := s.ramp.step + 1, lastDelay := rampDelay s.cfg f } := by simp [advance]
@[simp] theorem advance_ho (t : Word) (f d : F32) : (advance t f d s).ho = s.ho := by simp [advance]
@[simp] theorem advance_speed (t : Word) (f d : F32) : (advance t f d s).speed = s.speed := by simp [advance]
@[simp] theorem advance_pid (t : Word) (f d : F32) : (advance t f d s).pid = s.pid := by simp [advance]
@[simp] theorem advance_env (t : Word) (f d : F32) : (advance t f d s).env = s.env := by simp [advance]

@[simp] theorem rampStop_inst : (rampStop s).inst = s.inst := by simp [rampStop]
@[simp] theorem rampStop_iface : (rampStop s).iface = s.iface := by simp [rampStop]
@[simp] theorem rampStop_cfg : (rampStop s).cfg = s.cfg := by simp [rampStop]
@[simp] theorem rampStop_ctl : (rampStop s).ctl = s.ctl := by simp [rampStop]
@[simp] theorem rampStop_bemf : (rampStop s).bemf = s.bemf := by simp [rampStop]
@[simp] theorem rampStop_adc : (rampStop s).adc = s.adc := by simp [rampStop]
@[simp] theorem rampStop_comm : (rampStop s).comm = s.comm := by simp [rampStop]
@[simp] theorem rampStop_inv :
    (rampStop s).inv = { s.inv with ph := ⟨.hiZ, .hiZ, .hiZ⟩ } := by simp [rampStop]
@[simp] theorem rampStop_sched :
    (rampStop s).sched = { s.sched with active := false, tag := .none } := by simp [rampStop]
@[simp] theorem rampStop_ramp :
    (rampStop s).ramp =
      { active := false, owner := .host, dir := .cw, step := 0, elapsed := 0, lastDelay := 0, freq := f32Zero,
        duty := f32Zero, doneCount := s.ramp.doneCount, ctx := RampCtx.clear } := by simp [rampStop]
@[simp] theorem rampStop_ho : (rampStop s).ho = s.ho := by simp [rampStop]
@[simp] theorem rampStop_speed : (rampStop s).speed = s.speed := by simp [rampStop]
@[simp] theorem rampStop_pid : (rampStop s).pid = s.pid := by simp [rampStop]
@[simp] theorem rampStop_env : (rampStop s).env = s.env := by simp [rampStop]

@[simp] theorem rampStopSoft_inst : (rampStopSoft s).inst = s.inst := by simp [rampStopSoft]
@[simp] theorem rampStopSoft_iface : (rampStopSoft s).iface = s.iface := by simp [rampStopSoft]
@[simp] theorem rampStopSoft_cfg : (rampStopSoft s).cfg = s.cfg := by simp [rampStopSoft]
@[simp] theorem rampStopSoft_ctl : (rampStopSoft s).ctl = s.ctl := by simp [rampStopSoft]
@[simp] theorem rampStopSoft_bemf : (rampStopSoft s).bemf = s.bemf := by simp [rampStopSoft]
@[simp] theorem rampStopSoft_adc : (rampStopSoft s).adc = s.adc := by simp [rampStopSoft]
@[simp] theorem rampStopSoft_comm : (rampStopSoft s).comm = s.comm := by simp [rampStopSoft]
@[simp] theorem rampStopSoft_inv : (rampStopSoft s).inv = s.inv := by simp [rampStopSoft]
@[simp] theorem rampStopSoft_sched :
    (rampStopSoft s).sched = { s.sched with active := false, tag := .none } := by simp [rampStopSoft]
@[simp] theorem rampStopSoft_ramp :
    (rampStopSoft s).ramp = { s.ramp with active := false } := by simp [rampStopSoft]
@[simp] theorem rampStopSoft_ho : (rampStopSoft s).ho = s.ho := by simp [rampStopSoft]
@[simp] theorem rampStopSoft_speed : (rampStopSoft s).speed = s.speed := by simp [rampStopSoft]
@[simp] theorem rampStopSoft_pid : (rampStopSoft s).pid = s.pid := by simp [rampStopSoft]
@[simp] theorem rampStopSoft_env : (rampStopSoft s).env = s.env := by simp [rampStopSoft]

@[simp] theorem alignDone_inst (t : Word) : (alignDone t s).inst = s.inst := by simp [alignDone]
@[simp] theorem alignDone_iface (t : Word) : (alignDone t s).iface = s.iface := by simp [alignDone]
@[simp] theorem alignDone_cfg (t : Word) : (alignDone t s).cfg = s.cfg := by simp [alignDone]
@[simp] theorem alignDone_ctl (t : Word) :
    (alignDone t s).ctl = { s.ctl with aligning := false } := by simp [alignDone]
@[simp] theorem alignDone_bemf (t : Word) :
    (alignDone t s).bemf = { Bemf.reset with initDone := s.bemf.initDone, zcCount := s.bemf.zcCount } := by
    simp [alignDone]
@[simp] theorem alignDone_adc (t : Word) : (alignDone t s).adc = s.adc := by simp [alignDone]
@[simp] theorem alignDone_comm (t : Word) :
    (alignDone t s).comm = { s.comm with
        step := 0, dir := s.speed.motorDir, float := floatOf 0 s.speed.motorDir, duty := (rampCopies s.cfg).ds,
        count := inc32 s.comm.count, lastComm := t } := by simp [alignDone]
@[simp] theorem alignDone_inv (t : Word) :
    (alignDone t s).inv =
      { ph := drivePattern s.inst.phaseMap 0 s.speed.motorDir s.inv.ph, duty := (rampCopies s.cfg).ds } := by
    simp [alignDone]
@[simp] theorem alignDone_sched (t : Word) :
    (alignDone t s).sched = { s.sched with
        active := true, tag := .rampStep, deadline := t + rampDelay s.cfg (rampCopies s.cfg).fs } := by
    simp [alignDone]
@[simp] theorem alignDone_ramp (t : Word) :
    (alignDone t s).ramp = { s.ramp with
        ctx := rampCopies s.cfg, step := 0, elapsed := 0, freq := (rampCopies s.cfg).fs,
        duty := (rampCopies s.cfg).ds, owner := .stateMachine, dir := s.speed.motorDir, active := true,
        lastDelay := rampDelay s.cfg (rampCopies s.cfg).fs } := by simp [alignDone]
@[simp] theorem alignDone_ho (t : Word) : (alignDone t s).ho = s.ho := by simp [alignDone]
@[simp] theorem alignDone_speed (t : Word) : (alignDone t s).speed = s.speed := by simp [alignDone]
@[simp] theorem alignDone_pid (t : Word) : (alignDone t s).pid = s.pid := by simp [alignDone]
@[simp] theorem alignDone_env (t : Word) : (alignDone t s).env = s.env := by simp [alignDone]

@[simp] theorem armFirstCl_inst (t : Word) : (armFirstCl t s).inst = s.inst := by simp [armFirstCl]
@[simp] theorem armFirstCl_iface (t : Word) : (armFirstCl t s).iface = s.iface := by simp [armFirstCl]
@[simp] theorem armFirstCl_cfg (t : Word) : (armFirstCl t s).cfg = s.cfg := by simp [armFirstCl]
@[simp] theorem armFirstCl_ctl (t : Word) : (armFirstCl t s).ctl = s.ctl := by simp [armFirstCl]
@[simp] theorem armFirstCl_bemf (t : Word) : (armFirstCl t s).bemf = s.bemf := by simp [armFirstCl]
@[simp] theorem armFirstCl_adc (t : Word) : (armFirstCl t s).adc = s.adc := by simp [armFirstCl]
@[simp] theorem armFirstCl_comm (t : Word) :
    (armFirstCl t s).comm = { s.comm with armed := true, handoverArmed := true } := by simp [armFirstCl]
@[simp] theorem armFirstCl_inv (t : Word) : (armFirstCl t s).inv = s.inv := by simp [armFirstCl]
@[simp] theorem armFirstCl_sched (t : Word) :
    (armFirstCl t s).sched = { s.sched with active := true, deadline := t + F32.u31sat s.bemf.period, tag := .clComm } := by
    simp [armFirstCl]
@[simp] theorem armFirstCl_ramp (t : Word) : (armFirstCl t s).ramp = s.ramp := by simp [armFirstCl]
@[simp] theorem armFirstCl_ho (t : Word) : (armFirstCl t s).ho = s.ho := by simp [armFirstCl]
@[simp] theorem armFirstCl_speed (t : Word) : (armFirstCl t s).speed = s.speed := by simp [armFirstCl]
@[simp] theorem armFirstCl_pid (t : Word) : (armFirstCl t s).pid = s.pid := by simp [armFirstCl]
@[simp] theorem armFirstCl_env (t : Word) : (armFirstCl t s).env = s.env := by simp [armFirstCl]

@[simp] theorem enterClosedLoop_inst : (enterClosedLoop s).inst = s.inst := by simp [enterClosedLoop]
@[simp] theorem enterClosedLoop_iface : (enterClosedLoop s).iface = s.iface := by simp [enterClosedLoop]
@[simp] theorem enterClosedLoop_cfg : (enterClosedLoop s).cfg = s.cfg := by simp [enterClosedLoop]
@[simp] theorem enterClosedLoop_ctl :
    (enterClosedLoop s).ctl = { s.ctl with mode := .closedLoop } := by simp [enterClosedLoop]
@[simp] theorem enterClosedLoop_bemf : (enterClosedLoop s).bemf = s.bemf := by simp [enterClosedLoop]
@[simp] theorem enterClosedLoop_adc : (enterClosedLoop s).adc = s.adc := by simp [enterClosedLoop]
@[simp] theorem enterClosedLoop_comm :
    (enterClosedLoop s).comm = { s.comm with transition := false } := by simp [enterClosedLoop]
@[simp] theorem enterClosedLoop_inv : (enterClosedLoop s).inv = s.inv := by simp [enterClosedLoop]
@[simp] theorem enterClosedLoop_sched :
    (enterClosedLoop s).sched = { s.sched with active := false, tag := .none } := by simp [enterClosedLoop]
@[simp] theorem enterClosedLoop_ramp :
    (enterClosedLoop s).ramp = { s.ramp with active := false } := by simp [enterClosedLoop]
@[simp] theorem enterClosedLoop_ho : (enterClosedLoop s).ho = s.ho := by simp [enterClosedLoop]
@[simp] theorem enterClosedLoop_speed :
    (enterClosedLoop s).speed = { s.speed with target := s.speed.meas, duty := s.ho.duty } := by
    simp [enterClosedLoop]
@[simp] theorem enterClosedLoop_pid : (enterClosedLoop s).pid = s.pid := by simp [enterClosedLoop]
@[simp] theorem enterClosedLoop_env : (enterClosedLoop s).env = s.env := by simp [enterClosedLoop]

@[simp] theorem handoverFire_inst (t : Word) : (handoverFire t s).inst = s.inst := by simp [handoverFire]
@[simp] theorem handoverFire_iface (t : Word) : (handoverFire t s).iface = s.iface := by simp [handoverFire]
@[simp] theorem handoverFire_cfg (t : Word) : (handoverFire t s).cfg = s.cfg := by simp [handoverFire]
@[simp] theorem handoverFire_ctl (t : Word) :
    (handoverFire t s).ctl = { s.ctl with mode := .closedLoop } := by simp [handoverFire]
@[simp] theorem handoverFire_bemf (t : Word) : (handoverFire t s).bemf = s.bemf := by simp [handoverFire]
@[simp] theorem handoverFire_adc (t : Word) : (handoverFire t s).adc = s.adc := by simp [handoverFire]
@[simp] theorem handoverFire_comm (t : Word) :
    (handoverFire t s).comm = { s.comm with
        step := s.ho.step + 1, dir := s.ho.dir, float := floatOf (s.ho.step + 1) s.ho.dir, duty := s.ho.duty,
        count := inc32 s.comm.count, lastComm := t, armed := true, transition := false, handoverArmed := true } := by
    simp [handoverFire]
@[simp] theorem handoverFire_inv (t : Word) :
    (handoverFire t s).inv =
      { ph := drivePattern s.inst.phaseMap (s.ho.step + 1) s.ho.dir s.inv.ph, duty := s.ho.duty } := by
    simp [handoverFire]
@[simp] theorem handoverFire_sched (t : Word) :
    (handoverFire t s).sched = { s.sched with active := true, deadline := t + F32.u31sat s.bemf.period, tag := .clComm } := by
    simp [handoverFire]
@[simp] theorem handoverFire_ramp (t : Word) :
    (handoverFire t s).ramp = { s.ramp with active := false } := by simp [handoverFire]
@[simp] theorem handoverFire_ho (t : Word) : (handoverFire t s).ho = s.ho := by simp [handoverFire]
@[simp] theorem handoverFire_speed (t : Word) :
    (handoverFire t s).speed = { s.speed with target := s.speed.meas, duty := s.ho.duty } := by simp [handoverFire]
@[simp] theorem handoverFire_pid (t : Word) : (handoverFire t s).pid = s.pid := by simp [handoverFire]
@[simp] theorem handoverFire_env (t : Word) : (handoverFire t s).env = s.env := by simp [handoverFire]

@[simp] theorem clFire_inst (t : Word) : (clFire t s).inst = s.inst := by simp [clFire]
@[simp] theorem clFire_iface (t : Word) : (clFire t s).iface = s.iface := by simp [clFire]
@[simp] theorem clFire_cfg (t : Word) : (clFire t s).cfg = s.cfg := by simp [clFire]
@[simp] theorem clFire_ctl (t : Word) : (clFire t s).ctl = s.ctl := by simp [clFire]
@[simp] theorem clFire_bemf (t : Word) : (clFire t s).bemf = s.bemf := by simp [clFire]
@[simp] theorem clFire_adc (t : Word) : (clFire t s).adc = s.adc := by simp [clFire]
@[simp] theorem clFire_comm (t : Word) :
    (clFire t s).comm = { s.comm with
        step := s.comm.step + 1, dir := s.comm.dir, float := floatOf (s.comm.step + 1) s.comm.dir,
        duty := s.speed.duty, count := inc32 s.comm.count, lastComm := t, armed := false,
        handoverArmed := false } := by simp [clFire]
@[simp] theorem clFire_inv (t : Word) :
    (clFire t s).inv =
      { ph := drivePattern s.inst.phaseMap (s.comm.step + 1) s.comm.dir s.inv.ph, duty := s.speed.duty } := by
    simp [clFire]
@[simp] theorem clFire_sched (t : Word) : (clFire t s).sched = s.sched := by simp [clFire]
@[simp] theorem clFire_ramp (t : Word) : (clFire t s).ramp = s.ramp := by simp [clFire]
@[simp] theorem clFire_ho (t : Word) : (clFire t s).ho = s.ho := by simp [clFire]
@[simp] theorem clFire_speed (t : Word) : (clFire t s).speed = s.speed := by simp [clFire]
@[simp] theorem clFire_pid (t : Word) : (clFire t s).pid = s.pid := by simp [clFire]
@[simp] theorem clFire_env (t : Word) : (clFire t s).env = s.env := by simp [clFire]

@[simp] theorem reversal_inst (t : Word) : (reversal t s).inst = s.inst := by simp [reversal]
@[simp] theorem reversal_iface (t : Word) : (reversal t s).iface = s.iface := by simp [reversal]
@[simp] theorem reversal_cfg (t : Word) : (reversal t s).cfg = s.cfg := by simp [reversal]
@[simp] theorem reversal_ctl (t : Word) :
    (reversal t s).ctl = { s.ctl with mode := .openLoop, aligning := true, stopCause := .reversal } := by
    simp [reversal]
@[simp] theorem reversal_bemf (t : Word) : (reversal t s).bemf = s.bemf := by simp [reversal]
@[simp] theorem reversal_adc (t : Word) : (reversal t s).adc = s.adc := by simp [reversal]
@[simp] theorem reversal_comm (t : Word) :
    (reversal t s).comm = { s.comm with
        step := s.cfg.alignStep, dir := flipDir s.speed.motorDir,
        float := floatOf s.cfg.alignStep (flipDir s.speed.motorDir), duty := F32.ofWord s.cfg.alignDuty,
        count := inc32 s.comm.count, lastComm := t, armed := false, transition := false,
        handoverArmed := false } := by simp [reversal]
@[simp] theorem reversal_inv (t : Word) :
    (reversal t s).inv =
      { ph := drivePattern s.inst.phaseMap s.cfg.alignStep (flipDir s.speed.motorDir) ⟨.hiZ, .hiZ, .hiZ⟩,
        duty := F32.ofWord s.cfg.alignDuty } := by simp [reversal]
@[simp] theorem reversal_sched (t : Word) :
    (reversal t s).sched = { s.sched with active := true, deadline := t + s.cfg.alignTimeUs, tag := .alignDone } := by
    simp [reversal]
@[simp] theorem reversal_ramp (t : Word) :
    (reversal t s).ramp =
      { active := false, owner := .host, dir := .cw, step := 0, elapsed := 0, lastDelay := 0, freq := f32Zero,
        duty := f32Zero, doneCount := s.ramp.doneCount, ctx := RampCtx.clear } := by simp [reversal]
@[simp] theorem reversal_ho (t : Word) :
    (reversal t s).ho = { s.ho with streak := 0 } := by simp [reversal]
@[simp] theorem reversal_speed (t : Word) :
    (reversal t s).speed = { s.speed with
        motorDir := flipDir s.speed.motorDir, cmd := s.speed.revBuf, target := f32Zero, meas := f32Zero,
        duty := f32Zero, reversePending := false, revBuf := f32Zero } := by simp [reversal]
@[simp] theorem reversal_pid (t : Word) :
    (reversal t s).pid = { integ := f32Zero, prevErr := f32Zero, lastOut := f32Zero } := by simp [reversal]
@[simp] theorem reversal_env (t : Word) : (reversal t s).env = s.env := by simp [reversal]

end Sys2Proof.Machine
end

