-- ==== Sys2Proof/Laws/Ops.lean ====
section
/-! SUPPORT. What each shared operation can do, said once: ending a command, the phases, the six-step table, the integer
primitives. -/

namespace Sys2Proof.Machine

/-! ### Commands -/

@[simp] theorem firstError_nil : firstError [] = .ok := rfl

@[simp] theorem firstError_ok_cons (l : List CmdErr) : firstError (.ok :: l) = firstError l := rfl

/-- The first check of a list that fails is the result code. -/
theorem firstError_cons_of_ne (c : CmdErr) (l : List CmdErr) (h : c ≠ .ok) : firstError (c :: l) = c := by
  cases c <;> first | exact absurd rfl h | rfl

/-- Everything a command can do: run to its end, or raise its first error. -/
theorem command_cases {opc : BitVec 8} {checks : List CmdErr} {effect : State → State} {s : State}
    {o : Host.Outcome State Fault Refusal} (h : command opc checks effect s = o) :
    (firstError checks = .ok ∧ o = .next (cmdDone opc (effect s))) ∨
      (firstError checks ≠ .ok ∧ o = .next (cmdError opc (firstError checks) s)) := by
  unfold command at h
  split at h
  · exact .inl ⟨by assumption, h.symm⟩
  · rename_i hne
    exact .inr ⟨hne, h.symm⟩

/-- A command whose checks pass runs its effect. -/
theorem command_of_ok {opc : BitVec 8} {checks : List CmdErr} {effect : State → State} {s : State}
    (h : firstError checks = .ok) : command opc checks effect s = .next (cmdDone opc (effect s)) := by
  simp [command, h]

/-- A command whose checks fail writes `CMD_STATUS` and nothing else. -/
theorem command_of_error {opc : BitVec 8} {checks : List CmdErr} {effect : State → State} {s : State}
    (h : firstError checks ≠ .ok) :
    command opc checks effect s = .next (cmdError opc (firstError checks) s) := by
  rcases command_cases (rfl : command opc checks effect s = _) with ⟨h', _⟩ | ⟨_, h'⟩
  · exact absurd h' h
  · exact h'

@[simp] theorem busyUnlessStopped_eq_ok (s : State) : busyUnlessStopped s = .ok ↔ s.ctl.mode = .stopped := by
  unfold busyUnlessStopped
  cases s.ctl.mode <;> simp

@[simp] theorem faultIfLatched_eq_ok (s : State) : faultIfLatched s = .ok ↔ s.ctl.faultLatched = false := by
  unfold faultIfLatched
  cases s.ctl.faultLatched <;> simp

@[simp] theorem notReadyUnlessInit_eq_ok (s : State) : notReadyUnlessInit s = .ok ↔ s.bemf.initDone = true := by
  unfold notReadyUnlessInit
  cases s.bemf.initDone <;> simp

@[simp] theorem badArgIf_eq_ok (b : Bool) : badArgIf b = .ok ↔ b = false := by cases b <;> simp [badArgIf]

/-! ### Phases and the six-step table -/

@[simp] theorem getC_setC_same {α : Type} (x : Tri α) (p : CPhase) (v : α) : getC (setC x p v) p = v := by
  cases p <;> rfl

theorem getC_setC_of_ne {α : Type} (x : Tri α) {p q : CPhase} (v : α) (h : q ≠ p) :
    getC (setC x p v) q = getC x q := by
  cases p <;> cases q <;> first | exact absurd rfl h | rfl

@[simp] theorem getH_setH_same {α : Type} (x : Tri α) (p : HPhase) (v : α) : getH (setH x p v) p = v := by
  cases p <;> rfl

theorem getH_setH_of_ne {α : Type} (x : Tri α) {p q : HPhase} (v : α) (h : q ≠ p) :
    getH (setH x p v) q = getH x q := by
  cases p <;> cases q <;> first | exact absurd rfl h | rfl

/-- `P_PHASE_MAP` is a bijection (rule R8). -/
theorem mapPhase_injective (m : PhaseMap) (p q : CPhase) (h : mapPhase m p = mapPhase m q) : p = q := by
  revert h
  cases m <;> cases p <;> cases q <;> decide

/-! ### Integer primitives -/

theorem inc16_toNat (c : Half) : (inc16 c).toNat = min (c.toNat + 1) 0xFFFF := by
  have hc := c.isLt
  unfold inc16
  split
  · next h => subst h; rfl
  · next h =>
    have : c.toNat ≠ 0xFFFF := fun e => h (BitVec.eq_of_toNat_eq e)
    rw [BitVec.toNat_add]
    change (c.toNat + 1) % 65536 = _
    omega

theorem satadd32_toNat (a b : Word) : (satadd32 a b).toNat = min (a.toNat + b.toNat) 0xFFFFFFFF := by
  have ha := a.isLt
  have hb := b.isLt
  unfold satadd32
  split
  · change 0xFFFFFFFF = _; omega
  · rw [BitVec.toNat_add]; omega

theorem atOrAfter_iff (t d : Word) : atOrAfter t d = true ↔ (t - d).toNat < 2 ^ 31 := by simp [atOrAfter]

end Sys2Proof.Machine
end

