-- ==== Sys2Proof/Laws/PerInstr.lean ====
section
/-! SUPPORT. The shape of each instruction's words: a command is one word with its reserved bits clear (rules R150, R155,
R164), an event is a format E word, with a code of at most 8, and its payload (rule R161). -/

namespace Sys2Proof.Laws.EncodingShape

/-- A command encodes to one word whose bits [31:15] are 0; an event to a word whose code is at most 8, then its
payload. -/
def Statement (i : Instr) : Prop :=
  (i.isCommand = true ∧ ∃ w, encode i = [w] ∧ reservedField w = 0) ∨
    (i.isCommand = false ∧ ∃ w payload, encode i = w :: payload ∧ w.toNat ≤ 8)

/-- The reserved bits of a command word made of its fields are 0. -/
theorem reservedField_commandWord (opc : BitVec 8) (d : BitVec 1) (s st : BitVec 3) :
    reservedField (commandWord opc d s st) = 0 := by
  unfold reservedField commandWord
  ext j hj
  rw [BitVec.getElem_eq_testBit_toNat, BitVec.testBit_toNat]
  simp only [BitVec.getLsbD_extractLsb', BitVec.getLsbD_append]
  have h : ¬(15 + j < 8) := by omega
  have h1 : ¬(15 + j - 8 < 1) := by omega
  have h2 : ¬(15 + j - 8 - 1 < 3) := by omega
  have h3 : ¬(15 + j - 8 - 1 - 3 < 3) := by omega
  simp [h, h1, h2, h3]

theorem nop : Statement .nop :=
  .inl ⟨rfl, _, rfl, reservedField_commandWord _ _ _ _⟩

theorem bemfInit : Statement .bemfInit :=
  .inl ⟨rfl, _, rfl, reservedField_commandWord _ _ _ _⟩

theorem bemfReset : Statement .bemfReset :=
  .inl ⟨rfl, _, rfl, reservedField_commandWord _ _ _ _⟩

theorem bemfClearFlag : Statement .bemfClearFlag :=
  .inl ⟨rfl, _, rfl, reservedField_commandWord _ _ _ _⟩

theorem bemfGetStatus : Statement .bemfGetStatus :=
  .inl ⟨rfl, _, rfl, reservedField_commandWord _ _ _ _⟩

theorem schedStart : Statement .schedStart :=
  .inl ⟨rfl, _, rfl, reservedField_commandWord _ _ _ _⟩

theorem schedCancel : Statement .schedCancel :=
  .inl ⟨rfl, _, rfl, reservedField_commandWord _ _ _ _⟩

theorem schedIsActive : Statement .schedIsActive :=
  .inl ⟨rfl, _, rfl, reservedField_commandWord _ _ _ _⟩

theorem rampStart (d : Dir) : Statement (.rampStart d) :=
  .inl ⟨rfl, _, rfl, reservedField_commandWord _ _ _ _⟩

theorem rampStop : Statement .rampStop :=
  .inl ⟨rfl, _, rfl, reservedField_commandWord _ _ _ _⟩

theorem rampStopSoft : Statement .rampStopSoft :=
  .inl ⟨rfl, _, rfl, reservedField_commandWord _ _ _ _⟩

theorem rampGetState : Statement .rampGetState :=
  .inl ⟨rfl, _, rfl, reservedField_commandWord _ _ _ _⟩

theorem invCommutate (d : Dir) (step : BitVec 3) : Statement (.invCommutate d step) :=
  .inl ⟨rfl, _, rfl, reservedField_commandWord _ _ _ _⟩

theorem invDisable : Statement .invDisable :=
  .inl ⟨rfl, _, rfl, reservedField_commandWord _ _ _ _⟩

theorem invSetPhase (phase st : BitVec 3) : Statement (.invSetPhase phase st) :=
  .inl ⟨rfl, _, rfl, reservedField_commandWord _ _ _ _⟩

theorem setSpeed : Statement .setSpeed :=
  .inl ⟨rfl, _, rfl, reservedField_commandWord _ _ _ _⟩

theorem motorStop : Statement .motorStop :=
  .inl ⟨rfl, _, rfl, reservedField_commandWord _ _ _ _⟩

theorem setSlope : Statement .setSlope :=
  .inl ⟨rfl, _, rfl, reservedField_commandWord _ _ _ _⟩

theorem faultClear : Statement .faultClear :=
  .inl ⟨rfl, _, rfl, reservedField_commandWord _ _ _ _⟩

theorem pidReset : Statement .pidReset :=
  .inl ⟨rfl, _, rfl, reservedField_commandWord _ _ _ _⟩

theorem telemetry : Statement .telemetry :=
  .inl ⟨rfl, _, rfl, reservedField_commandWord _ _ _ _⟩

theorem clearSticky : Statement .clearSticky :=
  .inl ⟨rfl, _, rfl, reservedField_commandWord _ _ _ _⟩

theorem reset : Statement .reset :=
  .inr ⟨rfl, _, _, rfl, by decide⟩

theorem adcSample (ia ib ic va vb vc : Half) : Statement (.adcSample ia ib ic va vb vc) :=
  .inr ⟨rfl, _, _, rfl, by decide⟩

theorem fastTick : Statement .fastTick :=
  .inr ⟨rfl, _, _, rfl, by decide⟩

theorem lowTick : Statement .lowTick :=
  .inr ⟨rfl, _, _, rfl, by decide⟩

theorem timerExpire : Statement .timerExpire :=
  .inr ⟨rfl, _, _, rfl, by decide⟩

theorem faultIn : Statement .faultIn :=
  .inr ⟨rfl, _, _, rfl, by decide⟩

theorem hostWrite (off v : Word) (n : AccessWidth) : Statement (.hostWrite off v n) :=
  .inr ⟨rfl, _, _, rfl, by decide⟩

theorem hostRead (off : Word) (n : AccessWidth) : Statement (.hostRead off n) :=
  .inr ⟨rfl, _, _, rfl, by decide⟩

theorem timeAdvance : Statement .timeAdvance :=
  .inr ⟨rfl, _, _, rfl, by decide⟩

end Sys2Proof.Laws.EncodingShape
end

