-- ==== Sys2Proof/Laws/Step.lean ====
section
/-! SUPPORT. What one step can do, said once, and what an expiry and a command write can do. -/

namespace Sys2Proof.Machine

/-- Everything a timer expiry can do. -/
theorem execTimerExpire_cases (s : State) :
    (s.sched.active = true ∧ s.sched.tag ≠ .none ∧
        execTimerExpire s = .next (dispatch s.sched.tag s.sched.deadline (schedCancel s))) ∨
      (s.sched.active = true ∧ s.sched.tag = .none ∧ execTimerExpire s = .fault .expiryWithoutTag) ∨
      (s.sched.active = false ∧ execTimerExpire s = .fault .expiryWithoutEvent) := by
  unfold execTimerExpire
  cases h : s.sched.active
  · simp
  · by_cases ht : s.sched.tag = .none <;> simp [ht]

/-- The guards of rule R253. -/
def guardHolds (tag : Tag) (s : State) : Prop :=
  match tag with
  | .none => False
  | .alignDone => s.ctl.mode = .openLoop ∧ s.ctl.aligning = true
  | .rampStep => s.ramp.active = true
  | .handover => s.ctl.mode = .openLoop ∧ s.comm.transition = true
  | .clComm => s.ctl.mode = .closedLoop ∧ s.comm.armed = true
  | .user => True

/-- Everything a callback dispatch can do: run the callback of its tag when its guard holds, or nothing. -/
theorem dispatch_cases (tag : Tag) (t : Word) (s : State) :
    (tag = .alignDone ∧ guardHolds tag s ∧ dispatch tag t s = alignDone t s) ∨
      (tag = .rampStep ∧ guardHolds tag s ∧ dispatch tag t s = rampStep t s) ∨
      (tag = .handover ∧ guardHolds tag s ∧ dispatch tag t s = handoverFire t s) ∨
      (tag = .clComm ∧ guardHolds tag s ∧ dispatch tag t s = clFire t s) ∨
      (tag = .user ∧ dispatch tag t s = countUser s) ∨
      (¬guardHolds tag s ∧ dispatch tag t s = s) := by
  cases tag <;> simp only [dispatch, guarded, guardHolds]
  · simp
  · by_cases h : (decide (s.ctl.mode = .openLoop) && s.ctl.aligning) = true
    · simp only [Bool.and_eq_true, decide_eq_true_eq] at h; simp [h]
    · rw [if_neg h]; simp only [Bool.and_eq_true, decide_eq_true_eq] at h; simp [h]
  · cases h : s.ramp.active <;> simp
  · by_cases h : (decide (s.ctl.mode = .openLoop) && s.comm.transition) = true
    · simp only [Bool.and_eq_true, decide_eq_true_eq] at h; simp [h]
    · rw [if_neg h]; simp only [Bool.and_eq_true, decide_eq_true_eq] at h; simp [h]
  · by_cases h : (decide (s.ctl.mode = .closedLoop) && s.comm.armed) = true
    · simp only [Bool.and_eq_true, decide_eq_true_eq] at h; simp [h]
    · rw [if_neg h]; simp only [Bool.and_eq_true, decide_eq_true_eq] at h; simp [h]
  · simp

/-- Everything a ramp step can do: finish (as a host ramp or as the state machine's), or advance. -/
theorem rampStep_cases (t : Word) (s : State) :
    (∃ f d, rampStep t s = advance t f d (addElapsed s)) ∨
      (s.ramp.owner = .stateMachine ∧
        rampStep t s = safetyStop .rampEnd (countRamp (inverterDisable (deactivateRamp (addElapsed s))))) ∨
      (s.ramp.owner = .host ∧ rampStep t s = countRamp (inverterDisable (deactivateRamp (addElapsed s)))) := by
  unfold rampStep
  simp only
  split
  · right
    unfold rampFinish rampCompleteSm
    cases h : s.ramp.owner <;> simp [h]
  · exact .inl ⟨_, _, rfl⟩

/-- Everything a step can do. -/
theorem step_cases {s : State} {o : Host.Outcome State Fault Refusal} (h : step s = o) :
    (s.env.inputs = [] ∧ o = .next s) ∨
      ∃ r rest, s.env.inputs = r :: rest ∧
        ((∃ why, screenInput r s = .error why ∧ o = .refused why) ∨
          (∃ i, screenInput r s = .ok i ∧ expiryFirst i r.t s = true ∧ o = execTimerExpire s) ∨
          (∃ i, screenInput r s = .ok i ∧ expiryFirst i r.t s = false ∧ o = exec i (takeInput r.t rest s))) := by
  unfold step at h
  split at h
  · next h' => exact .inl ⟨h', h.symm⟩
  · next r rest h' =>
    refine .inr ⟨r, rest, h', ?_⟩
    split at h
    · next why hw => exact .inl ⟨why, hw, h.symm⟩
    · next i hi =>
      split at h
      · next hd => exact .inr (.inl ⟨i, hi, hd, h.symm⟩)
      · next hd => exact .inr (.inr ⟨i, hi, by simpa using hd, h.symm⟩)

/-- What a step that answers a next state did. -/
theorem step_next_cases {s t : State} (h : step s = .next t) :
    t = s ∨ execTimerExpire s = .next t ∨
      ∃ r rest i, s.env.inputs = r :: rest ∧ decodeEvent r.code r.payload = .ok i ∧
        exec i (takeInput r.t rest s) = .next t := by
  rcases step_cases h with ⟨_, h⟩ | ⟨r, rest, hr, ⟨w, _, h⟩ | ⟨i, _, _, h⟩ | ⟨i, hi, _, h⟩⟩
  · cases h; exact .inl rfl
  · cases h
  · exact .inr (.inl h.symm)
  · refine .inr (.inr ⟨r, rest, i, hr, ?_, h.symm⟩)
    unfold screenInput at hi
    split at hi
    · cases hi
    · next hd =>
      split at hi
      · cases hi; exact hd
      · cases hi

/-- Everything the execution of a command word can do, as a relation to `exec`. -/
theorem runCommandWord_cases (w : Word) (s : State) :
    (∃ why, decodeCommand w = .error why ∧ runCommandWord w s = .next (cmdError (opcField w) .illegal s)) ∨
      (∃ i, decodeCommand w = .ok i ∧ i.isCommand = true ∧ runCommandWord w s = exec i s) ∨
      (∃ i, decodeCommand w = .ok i ∧ i.isCommand = false ∧
        runCommandWord w s = .next (cmdError (opcField w) .illegal s)) := by
  unfold runCommandWord
  cases h : decodeCommand w with
  | error why => exact .inl ⟨why, rfl, rfl⟩
  | ok i =>
    cases i <;>
      first
        | exact .inr (.inl ⟨_, rfl, rfl, rfl⟩)
        | exact .inr (.inr ⟨_, rfl, rfl, rfl⟩)

/-- Everything a `HOST_WRITE` can do. -/
theorem execHostWrite_cases (off v : Word) (n : AccessWidth) (s : State) :
    (accessError off n = true ∧ execHostWrite off v n s = .next (respond 0 true s)) ∨
      (accessError off n = false ∧ off = 0x004 ∧
        execHostWrite off v n s = runCommandWord v (respond 0 false s)) ∨
      (accessError off n = false ∧ off ≠ 0x004 ∧
        execHostWrite off v n s = .next (memWrite off.toNat v (respond 0 false s))) := by
  unfold execHostWrite
  cases accessError off n
  · by_cases h : off = 0x004
    · exact .inr (.inl ⟨rfl, h, by rw [if_neg Bool.false_ne_true, if_pos h]⟩)
    · exact .inr (.inr ⟨rfl, h, by rw [if_neg Bool.false_ne_true, if_neg h]⟩)
  · exact .inl ⟨rfl, if_pos rfl⟩

end Sys2Proof.Machine
end

