-- ==== Sys2Proof/Tests/Slice0.lean ====
section
/-! SUPPORT. Tests of our own.  Expected values are those of spec/95_test_vectors.md, or are worked out by hand from the
rule a test names.  The `test_witness_…` theorems show, for each statement with hypotheses, a state and operands
that meet them. -/

namespace Sys2Proof.Machine

set_option Elab.async false

/-! ### Well-formedness (rule R158) -/

theorem test_ill_formed_step : (Instr.invCommutate .cw 6).wellFormed = false := by decide
theorem test_ill_formed_phase : (Instr.invSetPhase 3 0).wellFormed = false := by decide
theorem test_ill_formed_state : (Instr.invSetPhase 0 6).wellFormed = false := by decide
theorem test_well_formed_bounds :
    (Instr.invCommutate .ccw 5).wellFormed = true ∧ (Instr.invSetPhase 2 5).wellFormed = true := by decide

/-! ### Decoding: the words of 95_test_vectors.md §2.2 and of rule R161 -/

theorem test_decode_bemf :
    decodeCommand 0x00000000 = .ok .nop ∧ decodeCommand 0x00000001 = .ok .bemfInit ∧
      decodeCommand 0x00000002 = .ok .bemfReset ∧ decodeCommand 0x00000003 = .ok .bemfClearFlag ∧
      decodeCommand 0x00000004 = .ok .bemfGetStatus := ⟨rfl, rfl, rfl, rfl, rfl⟩

theorem test_decode_sched :
    decodeCommand 0x00000010 = .ok .schedStart ∧ decodeCommand 0x00000011 = .ok .schedCancel ∧
      decodeCommand 0x00000012 = .ok .schedIsActive := ⟨rfl, rfl, rfl⟩

theorem test_decode_ramp :
    decodeCommand 0x00000020 = .ok (.rampStart .cw) ∧ decodeCommand 0x00000120 = .ok (.rampStart .ccw) ∧
      decodeCommand 0x00000021 = .ok .rampStop ∧ decodeCommand 0x00000022 = .ok .rampStopSoft ∧
      decodeCommand 0x00000023 = .ok .rampGetState := ⟨rfl, rfl, rfl, rfl, rfl⟩

theorem test_decode_inverter :
    decodeCommand 0x00000530 = .ok (.invCommutate .ccw 2) ∧ decodeCommand 0x00000031 = .ok .invDisable ∧
      decodeCommand 0x00003232 = .ok (.invSetPhase 1 3) := ⟨rfl, rfl, rfl⟩

theorem test_decode_control :
    decodeCommand 0x00000040 = .ok .setSpeed ∧ decodeCommand 0x00000041 = .ok .motorStop ∧
      decodeCommand 0x00000042 = .ok .setSlope ∧ decodeCommand 0x00000043 = .ok .faultClear ∧
      decodeCommand 0x00000044 = .ok .pidReset ∧ decodeCommand 0x00000045 = .ok .telemetry ∧
      decodeCommand 0x00000046 = .ok .clearSticky := ⟨rfl, rfl, rfl, rfl, rfl, rfl, rfl⟩

theorem test_decode_refused :
    decodeCommand 0x00000200 = .error .unusedField ∧ decodeCommand 0x00008000 = .error .reservedBits ∧
      decodeCommand 0x00000047 = .error .unlistedOpcode ∧ decodeCommand 0x00000C30 = .error .stepRange ∧
      decodeCommand 0x00006232 = .error .stateRange ∧ decodeCommand 0x00000632 = .error .phaseRange :=
  ⟨rfl, rfl, rfl, rfl, rfl, rfl⟩

theorem test_decode_events :
    decodeEvent 0x0 [] = .ok .reset ∧ decodeEvent 0x2 [] = .ok .fastTick ∧ decodeEvent 0x3 [] = .ok .lowTick ∧
      decodeEvent 0x5 [] = .ok .faultIn ∧ decodeEvent 0x8 [] = .ok .timeAdvance := ⟨rfl, rfl, rfl, rfl, rfl⟩

theorem test_decode_payload_events :
    decodeEvent 0x1 [1, 2, 3, 0xFFFF, 5, 6] = .ok (.adcSample 1 2 3 0xFFFF 5 6) ∧
      decodeEvent 0x6 [0x104, 0x42480000] = .ok (.hostWrite 0x104 0x42480000 .four) ∧
      decodeEvent 0x7 [0x020] = .ok (.hostRead 0x020 .four) ∧
      decodeEvent 0x7 [0x020, 1] = .ok (.hostRead 0x020 .one) := ⟨rfl, rfl, rfl, rfl⟩

/-- Rule R163, and rule R162 for the payload. -/
theorem test_decode_events_refused :
    decodeEvent 0x4 [] = .error .internalCode ∧ decodeEvent 0x9 [] = .error .reservedCode ∧
      decodeEvent 0xF [] = .error .reservedCode ∧ decodeEvent 0x10 [] = .error .formatBits ∧
      decodeEvent 0x1 [0x10000, 0, 0, 0, 0, 0] = .error .adcRange ∧ decodeEvent 0x2 [0] = .error .payloadShape :=
  ⟨rfl, rfl, rfl, rfl, rfl, rfl⟩

theorem test_decode_table_words :
    decodeTableWord 32 0x530 = some (.invCommutate .ccw 2) ∧ decodeTableWord 32 0x5 = some .faultIn ∧
      decodeTableWord 32 0x6 = some (.hostWrite 0 0 .four) ∧ decodeTableWord 32 0x47 = none := by decide +kernel

/-! ### Helpers: small states, and what the host reads of an outcome -/

/-- Reset, with the BEMF monitor initialised. -/
def ready : State := { State.reset with bemf := { Bemf.reset with initDone := true } }

/-- `s` with `v` in `ARG0`. -/
def withArg (v : Word) (s : State) : State := { s with iface := { s.iface with arg0 := v } }

/-- `s` at time `t`. -/
def atTime (t : Word) (s : State) : State := { s with env := { s.env with time := t } }

/-- `s` with a sample set waiting. -/
def withSample (va vb vc : Half) (s : State) : State :=
  { s with adc := { s.adc with v := ⟨va, vb, vc⟩, isNew := true } }

/-- `s` in a mode. -/
def inMode (m : Mode) (s : State) : State := { s with ctl := { s.ctl with mode := m } }

/-- `s` with a pending event. -/
def withEvent (tag : Tag) (deadline : Word) (s : State) : State :=
  { s with sched := { s.sched with active := true, deadline := deadline, tag := tag } }

/-- `s` with a fault latched. -/
def latched (s : State) : State := { s with ctl := { s.ctl with faultLatched := true } }

/-- `s` with `v` written to a register. -/
def wrote (off : Nat) (v : Word) (s : State) : State := memWrite off v s

/-- The outcome is a next state whose registers read as listed. -/
def reads (o : Host.Outcome State Fault Refusal) (l : List (Nat × Word)) : Bool :=
  match o with
  | .next t => l.all (fun e => memRead e.1 t == e.2)
  | .fault _ => false
  | .refused _ => false

/-- The outcome is a next state with a property. -/
def nextIs (o : Host.Outcome State Fault Refusal) (p : State → Bool) : Bool :=
  match o with
  | .next t => p t
  | .fault _ => false
  | .refused _ => false

/-- A write of a command word to `CMD`. -/
def issue (w : Word) (s : State) : Host.Outcome State Fault Refusal := exec (.hostWrite 0x004 w .four) s

/-- A host read, and the value it answers. -/
def answers (off : Word) (n : AccessWidth) (s : State) (data : Word) (error : Bool) : Bool :=
  nextIs (exec (.hostRead off n) s) (fun t => t.env.resp == { data := data, error := error })

/-- What a step leaves, or the state itself. -/
def after (o : Host.Outcome State Fault Refusal) (s : State) : State :=
  match o with
  | .next t => t
  | .fault _ => s
  | .refused _ => s

/-- A state in ClosedLoop like the end of program P4 (§3.4): step 2 CW, floating C, locked at 2000 us. -/
def running : State :=
  { ready with
    ctl := { mode := .closedLoop, aligning := false, stopCause := .none, faultLatched := false }
    bemf := { ready.bemf with period := ⟨0x44FA0000⟩, periodSeeded := true, baselineDone := true, valid := true,
                              lastZc := 14000, prevOk := ⟨true, true, true⟩, zcCount := 6, zcPhase := .b }
    comm := { ready.comm with step := 2, float := .c, count := 4, lastComm := 15000, duty := ⟨0x3D4CCCCD⟩ }
    inv := { ph := ⟨.forcedLow, .pwmActive, .hiZ⟩, duty := ⟨0x3D4CCCCD⟩ }
    speed := { ready.speed with cmd := ⟨0x447A0000⟩, target := ⟨0x4432D249⟩, meas := ⟨0x44329249⟩,
                                duty := ⟨0x3D4CCCCD⟩ }
    env := { ready.env with time := 15000 } }

/-- A state in the ramping phase of OpenLoop, like program P4 (§3.4) before its handover: step 0 CW, floating A. -/
def climbing : State :=
  withEvent .rampStep 17666 { ready with
    ctl := { mode := .openLoop, aligning := false, stopCause := .none, faultLatched := false }
    bemf := { ready.bemf with prev := ⟨⟨0x42055556⟩, ⟨0⟩, ⟨0⟩⟩, prevOk := ⟨true, false, false⟩,
                              baselineDone := true, periodSeeded := true, period := ⟨0x44FA0000⟩, valid := true,
                              validCnt := 4, lastZc := 10000, zcCount := 4 }
    ramp := { ready.ramp with active := true, owner := .stateMachine, lastDelay := 16666, duty := ⟨0x3E99999A⟩ }
    inv := { ph := ⟨.hiZ, .forcedLow, .pwmActive⟩, duty := ⟨0x3E99999A⟩ }
    ho := { ready.ho with streak := 1 }
    env := { ready.env with time := 12000 } }

/-- A state in the alignment phase of OpenLoop (§3.4 at 0). -/
def alignedAt : State :=
  withEvent .alignDone 1000 { ready with
    ctl := { mode := .openLoop, aligning := true, stopCause := .none, faultLatched := false }
    inv := { ph := ⟨.hiZ, .forcedLow, .pwmActive⟩, duty := ⟨0x3E4CCCCD⟩ } }

/-! ### Commands (95_test_vectors.md §1.1, §2.2 to §2.9) -/

theorem test_nop : reads (issue 0x00 (atTime 9 running)) [(0x008, 0x000), (0x020, 0x602)] = true := by decide +kernel

theorem test_bemf_init : reads (issue 0x01 .reset) [(0x208, 0x10), (0x020, 0x400)] = true := by decide +kernel

theorem test_bemf_init_busy : reads (issue 0x01 running) [(0x008, 0x201), (0x204, 0x44FA0000)] = true := by
  decide +kernel

theorem test_bemf_reset :
    reads (issue 0x02 (inMode .stopped running)) [(0x208, 0x10), (0x204, 0), (0x21C, 6)] = true := by decide +kernel

theorem test_bemf_clear_flag :
    reads (issue 0x03 { ready with bemf := { running.bemf with zcFlag := true } }) [(0x208, 0x776)] = true := by
  decide +kernel

theorem test_bemf_get_status :
    reads (issue 0x04 climbing) [(0x010, 0x2), (0x014, 0x44FA0000), (0x018, 10000), (0x01C, 4)] = true := by
  decide +kernel

theorem test_sched_start :
    reads (issue 0x10 (atTime 12 (withArg 0x7FFFFFFF .reset)))
      [(0x008, 0x010), (0x244, 0x8000000B), (0x240, 0x51)] = true := by decide +kernel

theorem test_sched_start_bad_arg :
    reads (issue 0x10 (withArg 0x80000000 .reset)) [(0x008, 0x510), (0x240, 0)] = true := by decide +kernel

theorem test_sched_cancel :
    reads (issue 0x11 (withEvent .user 400 .reset)) [(0x240, 0), (0x244, 400)] = true := by decide +kernel

theorem test_sched_is_active :
    reads (issue 0x12 (withEvent .user 400 .reset)) [(0x010, 1), (0x014, 400), (0x018, 5), (0x01C, 0)] = true := by
  decide +kernel

theorem test_ramp_start :
    reads (issue 0x120 .reset)
      [(0x230, 0x150), (0x220, 0x10), (0x250, 0x5), (0x244, 6666), (0x240, 0x21), (0x25C, 0x41C80000)] = true := by
  decide +kernel

theorem test_ramp_start_fault : reads (issue 0x20 (latched .reset)) [(0x008, 0x420), (0x250, 0)] = true := by
  decide +kernel

theorem test_ramp_stop :
    reads (issue 0x21 (after (issue 0x20 .reset) .reset)) [(0x250, 0), (0x230, 0), (0x240, 0)] = true := by
  decide +kernel

theorem test_ramp_stop_soft :
    reads (issue 0x22 (after (issue 0x20 .reset) .reset)) [(0x250, 0), (0x230, 0x150), (0x240, 0)] = true := by
  decide +kernel

theorem test_ramp_get_state :
    reads (issue 0x23 (after (exec .timerExpire (after (issue 0x20 .reset) .reset)) .reset))
      [(0x010, 1), (0x014, 0x3E99AF01), (0x018, 0), (0x01C, 1)] = true := by decide +kernel

theorem test_inv_commutate :
    reads (issue 0x530 (withArg 0x3F000000 .reset))
      [(0x008, 0x30), (0x230, 0x501), (0x220, 0x112), (0x234, 0x3F000000), (0x228, 1)] = true := by decide +kernel

/-- The other entries of the table of §1.1: `INV_STATE` and `COMM_STATE`, CW then CCW. -/
theorem test_inv_commutate_table :
    [(0x030, 0x150, 0x000), (0x230, 0x105, 0x101), (0x430, 0x015, 0x202), (0x630, 0x510, 0x003),
     (0x830, 0x501, 0x104), (0xA30, 0x051, 0x205), (0x130, 0x150, 0x010), (0x330, 0x051, 0x211),
     (0x730, 0x510, 0x013), (0x930, 0x015, 0x214), (0xB30, 0x105, 0x115)].all
      (fun e : Word × Word × Word => reads (issue e.1 .reset) [(0x230, e.2.1), (0x220, e.2.2)]) = true := by
  decide +kernel

theorem test_inv_disable : reads (issue 0x31 (inMode .stopped running)) [(0x230, 0), (0x008, 0x31)] = true := by
  decide +kernel

theorem test_inv_disable_busy : reads (issue 0x31 climbing) [(0x230, 0x150), (0x008, 0x231)] = true := by
  decide +kernel

theorem test_inv_set_phase : reads (issue 0x3232 .reset) [(0x230, 0x030)] = true := by decide +kernel

theorem test_inv_set_phase_after :
    reads (issue 0x3232 (after (issue 0x530 .reset) .reset)) [(0x230, 0x531)] = true := by decide +kernel

/-- P5 (§3.5) at 10. -/
theorem test_set_speed :
    reads (issue 0x40 (withArg 0x43FA0000 ready)) [(0x008, 0x40), (0x020, 0x425), (0x2A0, 0x43FA0000)] = true := by
  decide +kernel

/-- §1.9 (a): a command against the running direction is buffered. -/
theorem test_set_speed_reverse :
    reads (issue 0x40 (withArg 0xC4BB8000 running))
      [(0x020, 0x10602), (0x2A0, 0), (0x2AC, 0x44BB8000)] = true := by decide +kernel

/-- Each result code of `SET_SPEED` in the precedence of rule R481 (§2.2). -/
theorem test_command_errors :
    reads (issue 0x40 (withArg 0x43FA0000 .reset)) [(0x008, 0x340)] = true ∧
      reads (issue 0x40 (withArg 0x7FC00000 (latched .reset))) [(0x008, 0x440)] = true ∧
      reads (issue 0x40 (withArg 0x7FC00000 ready)) [(0x008, 0x540)] = true ∧
      reads (issue 0x200 .reset) [(0x008, 0x100)] = true ∧
      reads (issue 0x6232 .reset) [(0x008, 0x132)] = true := by decide +kernel

/-- §2.6: the stop command, at the end of P4. -/
theorem test_motor_stop :
    reads (issue 0x41 running) [(0x020, 0x10000600), (0x230, 0), (0x240, 0), (0x220, 0x202)] = true := by
  decide +kernel

theorem test_set_slope : reads (issue 0x42 (withArg 0x42480000 .reset)) [(0x104, 0x42480000)] = true := by
  decide +kernel

theorem test_set_slope_bad_arg :
    reads (issue 0x42 (withArg 0xBF800000 .reset)) [(0x008, 0x542), (0x104, 0x3F800000)] = true := by decide +kernel

/-- P5 (§3.5) at 40. -/
theorem test_fault_clear :
    reads (issue 0x43 (latched (after (exec .faultIn ready) ready))) [(0x020, 0x20000400)] = true := by decide +kernel

theorem test_pid_reset :
    reads (issue 0x44 { State.reset with pid := ⟨⟨1⟩, ⟨2⟩, ⟨3⟩⟩ }) [(0x2C0, 0), (0x2C4, 0), (0x2C8, 0)] = true := by
  decide +kernel

/-- §2.8, at the end of P4, and with the other direction and step. -/
theorem test_telemetry :
    reads (issue 0x45 running) [(0x010, 0x22), (0x014, 0x44329249), (0x018, 6), (0x01C, 4)] = true ∧
      reads (issue 0x45 { running with comm := { running.comm with step := 4, dir := .ccw } })
        [(0x010, 0x142)] = true := by decide +kernel

theorem test_clear_sticky :
    reads (issue 0x46 { ready with adc := { ready.adc with overrun := true } }) [(0x020, 0x400)] = true := by
  decide +kernel

/-! ### Events (95_test_vectors.md §1.3, §2.1, §2.3, §2.5 to §2.7, §3) -/

theorem test_reset : reads (exec .reset (latched running)) resetTable = true := by decide +kernel

theorem test_adc_sample :
    reads (exec (.adcSample 1 2 3 10 20 30) ready) [(0x020, 0x01000400), (0x2E4, 2), (0x2F4, 30)] = true := by
  decide +kernel

theorem test_adc_overrun :
    reads (exec (.adcSample 0 0 0 0 50 50) (withSample 10 20 30 ready)) [(0x020, 0x03000400), (0x2EC, 0)] = true := by
  decide +kernel

/-- §2.3: the two worked samples on phase A. -/
theorem test_fast_tick_bemf :
    reads (exec .fastTick (withSample 0 50 50 ready)) [(0x210, 0xC2055555), (0x208, 0x110)] = true ∧
      reads (exec .fastTick (withSample 100 50 50 ready)) [(0x210, 0x42055556), (0x208, 0x110)] = true := by
  decide +kernel

/-- P4 (§3.4) at 12000: the streak reaches its minimum and the handover is planned. -/
theorem test_fast_tick_handover :
    reads (exec .fastTick (withSample 0 50 50 climbing))
      [(0x020, 0x2639), (0x240, 0x31), (0x244, 13000), (0x290, 0x00020000), (0x294, 0x3E99999A)] = true := by
  decide +kernel

/-- §1.9 (a): at or above the threshold there is no flip. -/
theorem test_low_tick :
    reads (exec .lowTick { running with bemf := { running.bemf with period := ⟨0x45DAC000⟩ } })
      [(0x2A8, 0x434C14E7), (0x2A4, 0x44331249)] = true := by decide +kernel

/-- §1.9 (a): below it the direction flips and the run restarts. -/
theorem test_low_tick_reversal :
    reads (exec .lowTick (atTime 16000 { wrote 0x0C8 1000 running with
        bemf := { running.bemf with period := ⟨0x45E10000⟩ }
        speed := { running.speed with reversePending := true, revBuf := ⟨0x44BB8000⟩ } }))
      [(0x020, 0x50020625), (0x2A0, 0x44BB8000), (0x2AC, 0), (0x230, 0x150), (0x220, 0x010), (0x240, 0x11),
       (0x244, 17000)] = true := by decide +kernel

/-- §2.5: the first step of a host ramp. -/
theorem test_timer_expire_ramp :
    reads (exec .timerExpire (after (issue 0x20 .reset) .reset))
      [(0x250, 0x11), (0x25C, 0x41E154AF), (0x260, 0x3E99AF01), (0x258, 5917), (0x244, 12583), (0x230, 0x105)] =
      true := by decide +kernel

/-- §3.4 at 13000: the handover. -/
theorem test_timer_expire_handover :
    reads (exec .timerExpire (withEvent .handover 13000 { climbing with
        comm := { climbing.comm with transition := true }
        ho := { climbing.ho with duty := ⟨0x3E99999A⟩, streak := 2 } }))
      [(0x020, 0x5632), (0x230, 0x105), (0x220, 0x101), (0x240, 0x41), (0x244, 15000), (0x250, 0x2),
       (0x2B0, 0x3E99999A)] = true := by decide +kernel

/-- P5 (§3.5) at 20. -/
theorem test_fault_in :
    reads (exec .faultIn alignedAt) [(0x020, 0x20100400), (0x230, 0), (0x240, 0)] = true := by decide +kernel

/-- The WARL writes of §2.1, each from reset: offset, value written, value read back. -/
theorem test_host_write_warl :
    [(0x094, 4, 0), (0x100, 0x00010000, 7), (0x100, 0xABCD000E, 14), (0x11C, 0xBDCCCCCD, 0x3D4CCCCD),
     (0x11C, 0x80000000, 0x80000000), (0x09C, 0, 100), (0x0C0, 6, 0), (0x088, 0, 0x41C80000),
     (0x118, 0x7F800000, 0x3A83126F), (0x104, 0xBF800000, 0x3F800000), (0x028, 0xFFFFFFFF, 0),
     (0x020, 0xFFFFFFFF, 0), (0x094, 3, 3)].all
      (fun e : Word × Word × Word => reads (exec (.hostWrite e.1 e.2.1 .four) .reset) [(e.1.toNat, e.2.2)]) = true := by
  decide +kernel

/-- The byte order of §2.1. -/
theorem test_host_write_bytes :
    nextIs (exec (.hostWrite 0x080 0x3E99999A .four) .reset) (fun t =>
      [0x080, 0x081, 0x082, 0x083].map (windowByte t) == [0x9A, 0x99, 0x99, 0x3E]) = true := by decide +kernel

/-- The access table of §2.1. -/
theorem test_host_read :
    answers 0x000 .four .reset 0x4E440100 false = true ∧ answers 0x004 .four .reset 0 false = true ∧
      answers 0x028 .four .reset 0 false = true ∧ answers 0x020 .one ready 0 true = true ∧
      answers 0x022 .four ready 0 true = true ∧ answers 0x400 .four ready 0 true = true ∧
      answers 0x024 .four (atTime 77 ready) 77 false = true := by decide +kernel

theorem test_time_advance : nextIs (exec .timeAdvance running) (fun t => t == running) = true := by decide +kernel

/-! ### Arithmetic (95_test_vectors.md §1.5, §2.3, §2.5 to §2.7) -/

theorem test_filter :
    filteredPeriod running 2200 = ⟨0x45002000⟩ ∧ filteredPeriod running 600 = ⟨0x44CE4000⟩ := by decide +kernel

theorem test_ramp_delay :
    [(0x41C80000, 6666), (0x43FA0000, 333), (0x41200000, 16666), (0x44FA0000, 100), (0x7F800000, 100),
     (0x7FC00000, 100), (0x0DA24260, 0x7FFFFFFF)].all
      (fun e : Word × Word => rampDelay Cfg.reset ⟨e.1⟩ == e.2) = true := by decide +kernel

/-- Profiles 0 and 2; profiles 1 and 3 rest on the free `NUM_POW` and `NUM_EXP`. -/
theorem test_profiles :
    let c := rampCopies Cfg.reset
    freqLinear c ⟨0x3E800000⟩ = ⟨0x430FC000⟩ ∧ freqQuadratic c ⟨0x3E800000⟩ = ⟨0x425AC000⟩ ∧
      dutyOf c ⟨0x3E800000⟩ = ⟨0x3EACCCCD⟩ ∧ dutyOf c ⟨0x3F000000⟩ = ⟨0x3ECFE7E3⟩ := by decide +kernel

/-- Rule R19: what is known of the two free functions. -/
theorem test_pow_exp_properties :
    F32.pow32 ⟨0x7F800000⟩ ⟨0x80000000⟩ = F32.one ∧ F32.pow32 ⟨0x41200000⟩ F32.one = ⟨0x41200000⟩ ∧
      F32.exp32 ⟨0x80000000⟩ = F32.one := ⟨rfl, rfl, rfl⟩

theorem test_comm_delay :
    [(0x44FA0000, 1000), (0x453B8000, 1500), (0x42240000, 20), (0xC0A00000, 20), (0x7FC00000, 20),
     (0x47C35000, 20000)].all
      (fun e : Word × Word => commDelay Cfg.reset ⟨e.1⟩ == e.2) = true := by decide +kernel

theorem test_slew :
    slew ⟨0x44329249⟩ ⟨0x447A0000⟩ F32.one = ⟨0x4432D249⟩ ∧ slew F32.nan ⟨0x40400000⟩ F32.one = ⟨0x40400000⟩ ∧
      slew ⟨0x4479E000⟩ ⟨0x447A0000⟩ F32.one = ⟨0x447A0000⟩ ∧ slew ⟨0x447A0000⟩ ⟨0⟩ F32.one = ⟨0x4479C000⟩ := by
  decide +kernel

theorem test_pid :
    pidStep Cfg.reset ⟨⟨0⟩, ⟨0⟩, ⟨0⟩⟩ F32.one ⟨0⟩ = ⟨⟨0x3683126F⟩, F32.one, ⟨0x3D4CCCCD⟩⟩ ∧
      (pidStep Cfg.reset ⟨⟨0⟩, ⟨0⟩, ⟨0⟩⟩ ⟨0x447A0000⟩ ⟨0⟩).lastOut = ⟨0x3F733333⟩ ∧
      (pidStep Cfg.reset ⟨⟨0⟩, ⟨0⟩, ⟨0⟩⟩ ⟨0⟩ ⟨0x43FA0000⟩).integ = ⟨0xBB000000⟩ ∧
      (pidStep Cfg.reset ⟨⟨0x3F733333⟩, ⟨0⟩, ⟨0⟩⟩ ⟨0x447A0000⟩ ⟨0⟩).integ = ⟨0x3F733333⟩ := by decide +kernel

/-- Rule R14: ties to even, a subnormal result, overflow, and the NaN of an invalid operation. -/
theorem test_rounding :
    F32.add ⟨0x4B800000⟩ F32.one = ⟨0x4B800000⟩ ∧ F32.add ⟨0x4B800001⟩ F32.one = ⟨0x4B800002⟩ ∧
      F32.mul ⟨0x00800000⟩ ⟨0x3F000000⟩ = ⟨0x00400000⟩ ∧ F32.mul ⟨0x7F7FFFFF⟩ ⟨0x40000000⟩ = ⟨0x7F800000⟩ ∧
      F32.sub ⟨0x7F800000⟩ ⟨0x7F800000⟩ = F32.nan ∧ F32.sqrt ⟨0x40000000⟩ = ⟨0x3FB504F3⟩ ∧
      F32.div F32.one F32.three = ⟨0x3EAAAAAB⟩ := by decide +kernel

/-! ### Witnesses: states and operands that meet the hypotheses of the statements -/

/-- A next state with a property, from an evaluation. -/
theorem next_and {o : Host.Outcome State Fault Refusal} {P : State → Prop} [DecidablePred P]
    (h : nextIs o (fun t => decide (P t)) = true) : ∃ t, o = .next t ∧ P t := by
  cases o with
  | next t => exact ⟨t, rfl, of_decide_eq_true h⟩
  | fault _ => cases h
  | refused _ => cases h

/-- `GuardInv` from the conjunction of its items, which can be evaluated. -/
theorem guardInv_of {s : State}
    (h : (s.ctl.aligning = true → s.ctl.mode = .openLoop ∧ s.sched.tag = .alignDone ∧ s.sched.active = true) ∧
      (s.comm.armed = true ↔ s.ctl.mode = .closedLoop ∧ s.sched.active = true ∧ s.sched.tag = .clComm) ∧
      (s.comm.handoverArmed = true → s.comm.armed = true) ∧
      ((s.comm.transition = true → s.ctl.mode = .openLoop) ∧
        (s.sched.active = true ∧ s.sched.tag = .handover → s.comm.transition = true)) ∧
      (s.ctl.mode = .stopped → s.comm.armed = false ∧ s.comm.transition = false ∧ s.comm.handoverArmed = false ∧
        s.speed.reversePending = false ∧ s.ctl.aligning = false ∧
        ¬(s.ramp.active = true ∧ s.ramp.owner = .stateMachine)) ∧
      (s.sched.tag = .none ↔ s.sched.active = false) ∧ s.comm.float = floatOf s.comm.step s.comm.dir) :
    GuardInv s :=
  ⟨h.1, h.2.1, h.2.2.1, h.2.2.2.1, h.2.2.2.2.1, h.2.2.2.2.2.1, h.2.2.2.2.2.2⟩

/-- A crossing on phase A at `e` microseconds after the last one at 1000. -/
def crossingAt (baseline : Bool) (e : Word) : State :=
  atTime (1000 + e) (withSample 100 50 50 { ready with bemf := { ready.bemf with
    prev := ⟨⟨0xC2055555⟩, ⟨0⟩, ⟨0⟩⟩, prevOk := ⟨true, false, false⟩, baselineDone := baseline, lastZc := 1000 } })

/-- The ramping phase with a crossing published `age` microseconds ago and not yet consumed; the lead delay is 1000. -/
def publishedFor (age : Word) : State :=
  atTime (10000 + age) { climbing with bemf := { climbing.bemf with zcFlag := true } }

/-- A reversal is pending at a held speed. -/
def reversing (m : Mode) (speed : Word) : State :=
  inMode m { ready with speed := { ready.speed with reversePending := true, meas := ⟨speed⟩, revBuf := ⟨0x44BB8000⟩ } }

/-- A state-machine handover is pending at 13000 (§3.4). -/
def handing : State :=
  withEvent .handover 13000 { climbing with
    comm := { climbing.comm with transition := true }
    ho := { climbing.ho with duty := ⟨0x3E99999A⟩, streak := 2 } }

/-- A closed-loop commutation is pending at 15000 (§3.4). -/
def armedLoop : State :=
  withEvent .clComm 15000 { running with comm := { running.comm with armed := true, handoverArmed := true } }

/-- `s` with one input supplied. -/
def supplied (t code : Word) (payload : List Word) (s : State) : State :=
  { s with env := { s.env with inputs := [{ t := t, code := code, payload := payload }] } }

/-! #### Encoding and steps -/

theorem test_witness_EncodingRoundTrips :
    (Instr.invSetPhase 2 5).wellFormed = true ∧ Instr.invSetPhase 2 5 ≠ .timerExpire ∧
      (Instr.invCommutate .ccw 5).wellFormed = true ∧ (Instr.hostRead 0x3FC .eight).wellFormed = true := by
  decide

theorem test_witness_CommandWordsHaveOneMeaning : decodeCommand 0x00000B30 = .ok (.invCommutate .ccw 5) := rfl

theorem test_witness_EventRecordsHaveOneMeaning :
    decodeEvent 0x6 [0x010, 0xFFFFFFFF, 8] = .ok (.hostWrite 0x010 0xFFFFFFFF .eight) := rfl

/-- Each clause of rule R158, and the words at the edge of each that are legal. -/
theorem test_witness_IllegalWordsAreRefused :
    (∀ w ∈ [(0x47 : Word), 0x8000, 0x100, 0x200, 0x1000, 0xC30, 0x632, 0x6032], IsIllegal w) ∧
      ∀ w ∈ [(0x46 : Word), 0xB30, 0x5432], ¬IsIllegal w := by
  simp [IsIllegal, listedOpcodes]

/-- An expiry that is due, one that is not, a `RESET`, and a timestamp 2^31 - 1 after the last. -/
theorem test_witness_StepRunsNextEvent :
    (supplied 1000 0x2 [] alignedAt).env.inputs = [{ t := 1000, code := 0x2, payload := [] }] ∧
      alignedAt.sched.active = true ∧ ((1000 : Word) - alignedAt.sched.deadline).toNat < 2 ^ 31 ∧
      ¬((999 : Word) - alignedAt.sched.deadline).toNat < 2 ^ 31 ∧ decodeEvent 0x0 [] = .ok .reset ∧
      ((0x80000009 : Word) - (atTime 10 ready).env.time).toNat < 2 ^ 31 := by
  refine ⟨rfl, ?_, ?_, ?_, rfl, ?_⟩ <;> decide +kernel

theorem test_witness_StepRunsNextEvent_order :
    let s : State := { ready with env := { ready.env with time := 10, started := true } }
    s.env.started = true ∧ 2 ^ 31 ≤ ((0x8000000A : Word) - s.env.time).toNat ∧
      2 ^ 31 ≤ ((9 : Word) - s.env.time).toNat := by decide +kernel

theorem test_witness_CommandWriteRunsCommand : decodeCommand 0x00005432 = .ok (.invSetPhase 2 5) := rfl

theorem test_witness_ReservedInputsAreRefused :
    (supplied 0 0x4 [] ready).env.inputs = [{ t := 0, code := 0x4, payload := [] }] ∧
      0x9 ≤ (0x9 : Word).toNat ∧ (0x9 : Word).toNat ≤ 0xF ∧ 0x9 ≤ (0xF : Word).toNat ∧ (0xF : Word).toNat ≤ 0xF := by
  refine ⟨rfl, ?_⟩; decide

theorem test_witness_TimeAloneChangesNothing : running.env.inputs = [] := rfl

/-! #### Commands -/

theorem test_witness_DiagnosticCommandsNeedStopped :
    (Instr.invDisable).wellFormed = true ∧ isDiagnostic .invDisable = true ∧ encode .invDisable = [0x31] ∧
      running.ctl.mode ≠ .stopped ∧ alignedAt.ctl.mode ≠ .stopped := by decide

theorem test_witness_DiagnosticCommandsNeedStopped_others :
    (Instr.motorStop).isCommand = true ∧ isDiagnostic .motorStop = false ∧
      ∃ t, exec .motorStop running = .next t ∧ t.ctl.mode = .stopped :=
  ⟨rfl, rfl, next_and (by decide +kernel)⟩

/-- An illegal word, a legal one, and a state for each result code, at the edges of the argument ranges. -/
theorem test_witness_CommandErrorsFollowTheTable :
    decodeCommand 0x8000 = .error .reservedBits ∧ decodeCommand 0x45 = .ok .telemetry ∧
      expectedCode .telemetry running = .ok ∧ expectedCode .invDisable running = .busy ∧
      expectedCode .setSpeed (latched ready) = .fault ∧ expectedCode .setSpeed .reset = .notReady ∧
      expectedCode .schedStart (withArg 0x7FFFFFFF ready) = .ok ∧
      expectedCode .schedStart (withArg 0x80000000 ready) = .badArg ∧
      expectedCode .setSlope (withArg 0x80000000 ready) = .ok ∧
      expectedCode .setSlope (withArg 0x80000001 ready) = .badArg ∧
      expectedCode .setSpeed (withArg 0x7F7FFFFF ready) = .ok ∧
      expectedCode .setSpeed (withArg 0x7F800000 ready) = .badArg := by
  refine ⟨rfl, rfl, ?_⟩; decide +kernel

/-- `-0.0` and the greatest finite slope. -/
theorem test_witness_FlagCommandsComplete :
    (F32.ge (F32.ofWord (withArg 0x80000000 ready).iface.arg0) ⟨0⟩ = true ∧
      (F32.ofWord (withArg 0x80000000 ready).iface.arg0).isInf = false) ∧
      F32.ge (F32.ofWord (withArg 0x7F7FFFFF running).iface.arg0) ⟨0⟩ = true ∧
      (F32.ofWord (withArg 0x7F7FFFFF running).iface.arg0).isInf = false := by decide +kernel

theorem test_witness_BemfInitAndResetComplete : (inMode .stopped running).ctl.mode = .stopped := rfl

/-- The bytes just outside `CMD_STATUS` and outside the operand registers, `ARG3` for `SCHED_IS_ACTIVE`. -/
theorem test_witness_SnapshotsLeaveEveryOtherByte :
    (Instr.schedIsActive ∈ [Instr.bemfGetStatus, .schedIsActive, .rampGetState, .telemetry]) ∧
      (∃ t, exec .schedIsActive running = .next t ∧ t.ctl.mode = .closedLoop) ∧
      (∃ t, exec .telemetry running = .next t ∧ t.ctl.mode = .closedLoop) ∧
      (∃ t, exec (.hostRead 0x008 .four) running = .next t ∧ t.ctl.mode = .closedLoop) ∧
      ¬(0x008 ≤ 0x00C ∧ 0x00C < 0x00C) ∧ ¬(0x008 ≤ 0x007 ∧ 0x007 < 0x00C) ∧
      ¬(0x010 ≤ 0x01C ∧ 0x01C < (if Instr.schedIsActive = .schedIsActive then 0x01C else 0x020)) ∧
      ¬(0x010 ≤ 0x020 ∧ 0x020 < (if Instr.telemetry = .schedIsActive then 0x01C else 0x020)) :=
  ⟨by decide, next_and (by decide +kernel), next_and (by decide +kernel), next_and (by decide +kernel), by decide,
    by decide, by decide, by decide⟩

theorem test_witness_SchedulerCommandsComplete :
    (withArg 0x7FFFFFFF ready).ctl.mode = .stopped ∧ (withArg 0x7FFFFFFF ready).iface.arg0.toNat ≤ 0x7FFFFFFF ∧
      (withArg 0 ready).iface.arg0.toNat ≤ 0x7FFFFFFF := by decide

theorem test_witness_RampCommandsComplete : ready.ctl.mode = .stopped ∧ ready.ctl.faultLatched = false := by decide

theorem test_witness_InverterCommandsComplete :
    ready.ctl.mode = .stopped ∧ ready.ctl.faultLatched = false ∧ (2 : BitVec 3).toNat ≤ 2 ∧
      (5 : BitVec 3).toNat ≤ 5 ∧ (0 : BitVec 3).toNat ≤ 2 ∧ 1 ≠ (2 : BitVec 3).toNat := by decide

/-- `-0.0`, the least nonzero speed and the greatest, in the three modes. -/
theorem test_witness_SetSpeedCompletes :
    [ready, running, climbing].all (fun s => [0x80000000, 0x80000001, 0x7F7FFFFF].all (fun v =>
      let s := withArg v s
      s.ctl.faultLatched == false && s.bemf.initDone && (F32.ofWord s.iface.arg0).isFinite)) = true := by
  decide +kernel

/-! #### Events -/

theorem test_witness_ResetRestoresEveryElement : (0x020 : Nat) ≠ 0x024 ∧ resetTable.lookup 0x000 = some 0x4E440100 := by
  decide

/-- No sample, no monitor, a first sample, a second of one sign, and a crossing below the noise floor. -/
theorem test_witness_FastTickProcessesSample :
    ready.ctl.mode = .stopped ∧ ¬SampleReady ready ∧ ¬SampleReady (withSample 1 2 3 .reset) ∧
      SampleReady (withSample 100 50 50 ready) ∧ ¬CrossingPasses (withSample 100 50 50 ready) ∧
      ¬CrossingPasses (withSample 0 50 50 (crossingAt true 2000)) ∧
      ¬CrossingPasses (wrote 0x044 0x42A00000 (crossingAt true 2000)) := by
  unfold CrossingPasses BelowNoise SignChange SampleReady; decide +kernel

/-- The baseline, and elapsed times at both bounds and just outside them. -/
theorem test_witness_FastTickTimesCrossing :
    (∀ s ∈ [crossingAt false 2000, crossingAt true 99, crossingAt true 100, crossingAt true 100000,
        crossingAt true 100001], CrossingPasses s ∧ s.ctl.mode = .stopped) ∧
      OutOfBounds Cfg.reset 99 ∧ ¬OutOfBounds Cfg.reset 100 ∧ ¬OutOfBounds Cfg.reset 100000 ∧
      OutOfBounds Cfg.reset 100001 := by
  unfold CrossingPasses BelowNoise SignChange SampleReady OutOfBounds; decide +kernel

/-- Every clause: Stopped, no crossing published, OpenLoop outside the ramping phase, ClosedLoop with one armed, and with
none armed. -/
theorem test_witness_FastTickRunsStateMachine :
    ready.ctl.mode = .stopped ∧
      (bemfProcess running.comm.float 15000 running).bemf.zcFlag = false ∧
      (let s := inMode .openLoop (crossingAt true 2000);
        s.ctl.mode = .openLoop ∧ (bemfProcess s.comm.float s.env.time s).bemf.zcFlag = true ∧ ¬RampingPhase s) ∧
      (∀ armed ∈ [true, false],
        let r := inMode .closedLoop (crossingAt true 2000)
        let s : State := { r with comm := { r.comm with armed := armed } }
        s.ctl.mode = .closedLoop ∧ (bemfProcess s.comm.float s.env.time s).bemf.zcFlag = true ∧
          (bemfProcess s.comm.float s.env.time s).bemf.zcPhase = s.comm.float ∧ s.comm.armed = armed) := by
  unfold RampingPhase; decide +kernel

/-- The stall check at the timeout, and one microsecond past it (§2.6). -/
theorem test_witness_FastTickRunsStateMachine_stall :
    reads (exec .fastTick (atTime 18000 (wrote 0x0E8 3000 running))) [(0x020, 0x602)] = true ∧
      reads (exec .fastTick (atTime 18001 (wrote 0x0E8 3000 running)))
        [(0x020, 0x40000600), (0x230, 0), (0x220, 0x202)] = true := by decide +kernel

/-- A crossing that does not qualify, the streak just below its minimum and at it, and the crossing's age: at the lead
delay, at one less than `SCHED_MIN_US` from it, and at `SCHED_MIN_US` from it. -/
theorem test_witness_FastTickPlansHandover :
    (∀ age ∈ [1000, 991, 990],
      let s := publishedFor (BitVec.ofNat 32 age);
      s.ctl.mode = .openLoop ∧ RampingPhase s ∧ bemfProcess s.comm.float s.env.time s = s ∧ s.bemf.zcFlag = true ∧
        Qualifying s ∧ s.cfg.clStreakMin.toNat ≤ s.ho.streak.toNat + 1 ∧
        (commDelay s.cfg s.bemf.period).toNat = 1000 ∧ (s.env.time - s.bemf.lastZc).toNat = age ∧
        s.cfg.schedMinUs.toNat = 10) ∧
      (let s : State := { publishedFor 0 with ho := ready.ho };
        RampingPhase s ∧ Qualifying s ∧ s.ho.streak.toNat + 1 < s.cfg.clStreakMin.toNat) ∧
      (let r := publishedFor 0;
        let s : State := { r with bemf := { r.bemf with valid := false } };
        RampingPhase s ∧ s.bemf.zcFlag = true ∧ ¬Qualifying s) := by
  unfold RampingPhase Qualifying; decide +kernel

/-- No reversal is due: none pending in ClosedLoop with and without a valid BEMF, and one held at the threshold. -/
theorem test_witness_LowTickRegulates :
    ¬ReversalDue running ∧ running.ctl.mode = .closedLoop ∧ running.bemf.valid = true ∧
      (∀ m ∈ [Mode.stopped, .openLoop, .closedLoop], ¬ReversalDue (reversing m 0x43480000)) ∧
      (reversing .closedLoop 0x43480000).bemf.valid = false ∧ ¬ReversalDue (reversing .stopped 0) := by
  unfold ReversalDue; decide +kernel

/-- Just below the threshold of 200. -/
theorem test_witness_LowTickReverses :
    ReversalDue (reversing .closedLoop 0x4347FFFF) ∧ ReversalDue (reversing .openLoop 0) := by
  unfold ReversalDue; decide +kernel

theorem test_witness_TimerExpirySkipsAndCounts :
    ((withEvent .user 400 ready).sched.active = true ∧ (withEvent .user 400 ready).sched.tag = .user) ∧
      (∀ tag ∈ [Tag.alignDone, .rampStep, .handover, .clComm],
        let s := withEvent tag 400 ready
        s.sched.active = true ∧ s.sched.tag = tag ∧ s.ctl.mode = .stopped ∧ s.ramp.active = false) ∧
      ready.sched.active = false ∧
      ((withEvent .none 400 ready).sched.active = true ∧ (withEvent .none 400 ready).sched.tag = .none) := by decide

theorem test_witness_TimerEndsAlignment :
    alignedAt.sched.active = true ∧ alignedAt.sched.tag = .alignDone ∧ alignedAt.ctl.mode = .openLoop ∧
      alignedAt.ctl.aligning = true := by decide

/-- With either owner: an elapsed time at the total of 1 ms, and one microsecond short of it. -/
theorem test_witness_TimerStepsRamp :
    ∀ owner ∈ [Owner.host, .stateMachine], ∀ d ∈ [1000, 999],
      let s : State := { climbing with ramp := { climbing.ramp with
        owner := owner, lastDelay := BitVec.ofNat 32 d, ctx := { climbing.ramp.ctx with tMs := 1 } } }
      s.sched.active = true ∧ s.sched.tag = .rampStep ∧ s.ramp.active = true ∧ s.ramp.owner = owner ∧
        s.ramp.ctx.tMs.toNat * 1000 = 1000 ∧ s.ramp.elapsed.toNat + s.ramp.lastDelay.toNat = d := by decide +kernel

theorem test_witness_TimerCommutates :
    (handing.sched.active = true ∧ handing.sched.tag = .handover ∧ handing.ctl.mode = .openLoop ∧
      handing.comm.transition = true) ∧
      armedLoop.sched.active = true ∧ armedLoop.sched.tag = .clComm ∧ armedLoop.ctl.mode = .closedLoop ∧
      armedLoop.comm.armed = true := by decide

/-! #### The register window -/

/-- The first and last words of the window, and legal and illegal values at the edges of the ranges. -/
theorem test_witness_HostWriteStores :
    ((0x000 : Word).toNat % 4 = 0 ∧ (0x3FC : Word).toNat % 4 = 0 ∧ (0x3FC : Word).toNat < 0x400 ∧
      (0x3FC : Word) ≠ 0x004) ∧
      isWritable 0x128 = true ∧ isWritable 0x12C = false ∧ isLegalValue 0x0C0 5 = true ∧
      isLegalValue 0x0C0 6 = false ∧ isLegalValue 0x0C8 0x7FFFFFFF = true ∧ isLegalValue 0x0C8 0x80000000 = false ∧
      isLegalValue 0x09C 0 = false ∧ isLegalValue 0x09C 1 = true ∧ isLegalValue 0x088 1 = true ∧
      isLegalValue 0x088 0 = false := by decide +kernel

/-- The edges of the reserved ranges, and the patterns at the edge between infinity and a NaN. -/
theorem test_witness_HostReadAnswers :
    ((0x3FC : Word).toNat % 4 = 0 ∧ (0x3FC : Word).toNat < 0x400 ∧ 0x2F8 % 4 = 0 ∧ 0x2F8 ≤ 0x2F8 ∧ 0x12C % 4 = 0 ∧
      0x12C ≤ 0x12C ∧ 0x12C < 0x200) ∧
      (F32.inf true).pat.toNat % 2 ^ 31 ≤ 0x7F800000 ∧ 0x7F800000 < (⟨0xFF800001⟩ : F32).pat.toNat % 2 ^ 31 := by decide

/-- Each of the three causes alone, at its edge. -/
theorem test_witness_AccessErrorsChangeNothing :
    AccessWidth.eight ≠ .four ∧ (0x001 : Word).toNat % 4 ≠ 0 ∧ 0x400 ≤ (0x400 : Word).toNat := by decide

theorem test_witness_RegisterAccessesAreIdempotent :
    (∃ t, exec (.hostRead 0x020 .four) running = .next t ∧ t.env.resp.data = 0x602) ∧ (0x100 : Word) ≠ 0x004 ∧
      (∃ t, exec (.hostWrite 0x100 9 .four) running = .next t ∧ t.cfg.polePairs = 9) :=
  ⟨next_and (by decide +kernel), by decide, next_and (by decide +kernel)⟩

/-! #### Invariants and whole-machine rules -/

theorem test_witness_GuardInvariantKept :
    GuardInv (supplied 1000 0x2 [] alignedAt) ∧
      ∃ t, step (supplied 1000 0x2 [] alignedAt) = .next t ∧ t.sched.tag = .rampStep ∧ t.ctl.aligning = false :=
  ⟨guardInv_of (by decide +kernel), next_and (by decide +kernel)⟩

theorem test_witness_LoopRampIdleKept :
    LoopRampIdle (supplied 15000 0x3 [] armedLoop) ∧ armedLoop.ctl.mode = .closedLoop ∧
      ∃ t, step (supplied 15000 0x3 [] armedLoop) = .next t ∧ t.comm.step = 3 :=
  ⟨by unfold LoopRampIdle; decide, rfl, next_and (by decide +kernel)⟩

theorem test_cfg_reset_legal : CfgLegal Cfg.reset := by constructor <;> decide +kernel

theorem test_witness_ConfigurationStaysLegal :
    CfgLegal (supplied 0 0x6 [0x088, 0x41200000] ready).cfg ∧
      ∃ t, step (supplied 0 0x6 [0x088, 0x41200000] ready) = .next t ∧ t.cfg.rampFreqStartHz = 0x41200000 :=
  ⟨test_cfg_reset_legal, next_and (by decide +kernel)⟩

/-- A latched fault, and a command that is refused for it. -/
theorem test_witness_FaultedOutputsStayOff :
    FaultOff (supplied 0 0x6 [0x004, 0x20] (latched ready)) ∧ (latched ready).ctl.faultLatched = true ∧
      ∃ t, step (supplied 0 0x6 [0x004, 0x20] (latched ready)) = .next t ∧ t.iface.lastErr = .fault :=
  ⟨by unfold FaultOff AllHiZ; decide, rfl, next_and (by decide +kernel)⟩

/-- A NaN voltage scale brings the NaN datum in. -/
theorem test_witness_DataStayCanonical :
    DataCanonical (supplied 0 0x2 [] (withSample 1 2 3 (wrote 0x040 0xFFFFFFFF ready))) ∧
      ∃ t, step (supplied 0 0x2 [] (withSample 1 2 3 (wrote 0x040 0xFFFFFFFF ready))) = .next t ∧
        t.bemf.prev.a = F32.nan :=
  ⟨by constructor <;> (unfold IsDatum; decide +kernel), next_and (by decide +kernel)⟩

theorem test_witness_StepNeverFaults : SlotTagged alignedAt ∧ SlotTagged ready := by unfold SlotTagged; decide

/-- From Stopped, and the changes inside OpenLoop: the end of alignment, a reversal, a planned handover. -/
theorem test_witness_ModeChangesOnlyByTable_start :
    GuardInv (withArg 0x43FA0000 ready) ∧ LoopRampIdle (withArg 0x43FA0000 ready) ∧
      (∃ t, exec .setSpeed (withArg 0x43FA0000 ready) = .next t ∧ t.ctl.mode = .openLoop) ∧
      (GuardInv alignedAt ∧ ∃ t, exec .timerExpire alignedAt = .next t ∧ t.ctl.aligning = false) ∧
      (GuardInv (reversing .openLoop 0) ∧ ∃ t, exec .lowTick (reversing .openLoop 0) = .next t ∧
        t.ctl.aligning = true) ∧
      (GuardInv (publishedFor 990) ∧ ∃ t, exec .fastTick (publishedFor 990) = .next t ∧ t.comm.transition = true) :=
  ⟨guardInv_of (by decide +kernel), by unfold LoopRampIdle; decide, next_and (by decide +kernel),
    ⟨guardInv_of (by decide +kernel), next_and (by decide +kernel)⟩,
    ⟨guardInv_of (by decide +kernel), next_and (by decide +kernel)⟩,
    ⟨guardInv_of (by decide +kernel), next_and (by decide +kernel)⟩⟩

/-- Out of OpenLoop: a stop command, the ramp's end, and the handover at the crossing or at its deadline. -/
theorem test_witness_ModeChangesOnlyByTable_openLoop :
    GuardInv climbing ∧ (∃ t, exec .motorStop climbing = .next t ∧ t.ctl.mode = .stopped) ∧
      (∃ t, exec .timerExpire climbing = .next t ∧ t.ctl.mode = .stopped) ∧
      (GuardInv (publishedFor 1000) ∧ ∃ t, exec .fastTick (publishedFor 1000) = .next t ∧ t.ctl.mode = .closedLoop) ∧
      (GuardInv handing ∧ LoopRampIdle handing ∧ ∃ t, exec .timerExpire handing = .next t ∧ t.ctl.mode = .closedLoop) :=
  ⟨guardInv_of (by decide +kernel), next_and (by decide +kernel), next_and (by decide +kernel),
    ⟨guardInv_of (by decide +kernel), next_and (by decide +kernel)⟩,
    ⟨guardInv_of (by decide +kernel), by unfold LoopRampIdle; decide, next_and (by decide +kernel)⟩⟩

/-- Out of ClosedLoop: a fault, a stall, a reversal. -/
theorem test_witness_ModeChangesOnlyByTable_closedLoop :
    GuardInv armedLoop ∧ LoopRampIdle armedLoop ∧ (∃ t, exec .faultIn armedLoop = .next t ∧ t.ctl.mode = .stopped) ∧
      (GuardInv (atTime 18001 (wrote 0x0E8 3000 running)) ∧
        ∃ t, exec .fastTick (atTime 18001 (wrote 0x0E8 3000 running)) = .next t ∧ t.ctl.mode = .stopped) ∧
      (GuardInv (reversing .closedLoop 0) ∧
        ∃ t, exec .lowTick (reversing .closedLoop 0) = .next t ∧ t.ctl.mode = .openLoop) :=
  ⟨guardInv_of (by decide +kernel), by unfold LoopRampIdle; decide, next_and (by decide +kernel),
    ⟨guardInv_of (by decide +kernel), next_and (by decide +kernel)⟩,
    ⟨guardInv_of (by decide +kernel), next_and (by decide +kernel)⟩⟩

/-- Each cause. -/
theorem test_witness_StopCauseRecordsWhy :
    (∃ t, exec .motorStop running = .next t ∧ t.ctl.stopCause = .stopCommand) ∧
      (∃ t, exec .faultIn running = .next t ∧ t.ctl.stopCause = .hardwareFault) ∧
      (∃ t, exec .timerExpire climbing = .next t ∧ t.ctl.stopCause = .rampEnd) ∧
      (∃ t, exec .fastTick (atTime 18001 (wrote 0x0E8 3000 running)) = .next t ∧ t.ctl.stopCause = .stallTimeout) ∧
      (∃ t, exec .lowTick (reversing .closedLoop 0) = .next t ∧ t.ctl.stopCause = .reversal) ∧
      (∃ t, exec .reset (after (exec .faultIn running) running) = .next t ∧ t.ctl.stopCause = .none) :=
  ⟨next_and (by decide +kernel), next_and (by decide +kernel), next_and (by decide +kernel),
    next_and (by decide +kernel), next_and (by decide +kernel), next_and (by decide +kernel)⟩

theorem test_witness_StopsAreSafe :
    running.ctl.mode ≠ .stopped ∧ ∃ t, exec .motorStop running = .next t ∧ t.ctl.mode = .stopped :=
  ⟨by decide, next_and (by decide +kernel)⟩

theorem test_witness_HandoverKeepsDriving :
    handing.ctl.mode = .openLoop ∧ ∃ t, exec .timerExpire handing = .next t ∧ t.ctl.mode = .closedLoop :=
  ⟨rfl, next_and (by decide +kernel)⟩

/-- An event that makes no commutation, and one that makes one. -/
theorem test_witness_CommutationsAreCounted :
    (∃ t, exec .lowTick running = .next t ∧ t.comm.count = 4) ∧
      ∃ t, exec .timerExpire armedLoop = .next t ∧ t.comm.count = 5 ∧ t.comm.lastComm = 15000 :=
  ⟨next_and (by decide +kernel), next_and (by decide +kernel)⟩

theorem test_witness_CrossingsAreCounted :
    Instr.fastTick ≠ .reset ∧ ∃ t, exec .fastTick (crossingAt true 2000) = .next t ∧
      t.bemf.zcCount ≠ (crossingAt true 2000).bemf.zcCount :=
  ⟨by decide, next_and (by decide +kernel)⟩

/-- A measurement, each event that starts or ends a run, and a low tick that holds the value: BEMF is invalid and the
speed is at the reversal threshold, not below it. -/
theorem test_witness_SpeedChangesOnlyWhenMeasured :
    (∃ t, exec .lowTick { running with speed := ready.speed } = .next t ∧ t.speed.meas ≠ ready.speed.meas) ∧
      (∃ t, exec .setSpeed { withArg 0x43FA0000 ready with speed := running.speed } = .next t ∧
        t.speed.meas ≠ running.speed.meas ∧ t.ctl.mode = .openLoop ∧ t.ctl.aligning = true) ∧
      (∃ t, exec .motorStop running = .next t ∧ t.speed.meas ≠ running.speed.meas) ∧
      (∃ t, exec .faultIn running = .next t ∧ t.speed.meas ≠ running.speed.meas) ∧
      (∃ t, exec .reset running = .next t ∧ t.speed.meas ≠ running.speed.meas) ∧
      (let s := atTime 18001 (wrote 0x0E8 3000 running)
        ∃ t, exec .fastTick s = .next t ∧ t.speed.meas ≠ s.speed.meas ∧ s.cfg.clStallTimeoutUs ≠ 0 ∧
          s.cfg.clStallTimeoutUs.toNat < (s.env.time - s.comm.lastComm).toNat) ∧
      (∃ t, exec .lowTick (reversing .closedLoop 0x4347FFFF) = .next t ∧
        t.speed.meas ≠ (reversing .closedLoop 0x4347FFFF).speed.meas) ∧
      (let s : State := { climbing with speed := running.speed }
        ∃ t, exec .timerExpire s = .next t ∧ t.speed.meas ≠ s.speed.meas ∧ s.ramp.owner = .stateMachine ∧
          s.ramp.ctx.tMs.toNat * 1000 ≤ min (s.ramp.elapsed.toNat + s.ramp.lastDelay.toNat) 0xFFFFFFFF) :=
  ⟨next_and (by decide +kernel), next_and (by decide +kernel), next_and (by decide +kernel),
    next_and (by decide +kernel), next_and (by decide +kernel), next_and (by decide +kernel),
    next_and (by decide +kernel), next_and (by decide +kernel)⟩

theorem test_witness_SpeedChangesOnlyWhenMeasured_held :
    let s := reversing .closedLoop 0x43480000
    s.bemf.valid = false ∧ ¬EndsOrStartsRun .lowTick s s ∧ Instr.lowTick ≠ .reset ∧
      ∃ t, exec .lowTick s = .next t ∧ ¬EndsOrStartsRun .lowTick s t ∧ t.speed.meas = s.speed.meas ∧
        s.speed.meas = ⟨0x43480000⟩ := by
  have h : ¬ReversalDue (reversing .closedLoop 0x43480000) := by unfold ReversalDue; decide +kernel
  have e : ∀ t, ¬EndsOrStartsRun .lowTick (reversing .closedLoop 0x43480000) t := fun t => by
    simpa [EndsOrStartsRun, commandOf, Instr.isCommand] using h
  refine ⟨by decide, e _, by decide, ?_⟩
  obtain ⟨t, ht, hm⟩ : ∃ t, exec .lowTick (reversing .closedLoop 0x43480000) = .next t ∧
      t.speed.meas = (reversing .closedLoop 0x43480000).speed.meas := next_and (by decide +kernel)
  exact ⟨t, ht, e t, hm, rfl⟩

/-- An input 5000 us after the deadline: the alignment ends and the ramp runs behind it. -/
theorem test_witness_DrainReachesInput :
    let s := supplied 6000 0x8 [] alignedAt
    CfgLegal s.cfg ∧ SlotTagged s ∧ s.env.inputs = [{ t := 6000, code := 0x8, payload := [] }] ∧
      (screenInput { t := 6000, code := 0x8, payload := [] } s).toOption = some .timeAdvance ∧
      expiryFirst .timeAdvance 6000 s = true :=
  ⟨test_cfg_reset_legal, by unfold SlotTagged; decide, rfl, by decide +kernel, by decide +kernel⟩

theorem test_witness_LockExactlyAtThreshold :
    1 ≤ ready.cfg.bemfLockN.toNat ∧ ready.bemf.valid = false ∧ ready.bemf.validCnt = 0 ∧
      1 ≤ running.cfg.bemfUnlockM.toNat ∧ running.bemf.valid = true ∧ running.bemf.invalidCnt = 0 ∧
      (periodAccept .a 2000 (periodAccept .a 2000 (periodAccept .a 2000 ready))).bemf.valid = false ∧
      (periodAccept .a 2000 (periodAccept .a 2000 (periodAccept .a 2000 (periodAccept .a 2000 ready)))).bemf.valid =
        true := by decide +kernel

/-- States that differ in the time port only: `TIME_US` reads differently. -/
theorem test_witness_StateIsReadable :
    let t : State := { State.reset with env := { State.reset.env with time := 1 } }
    State.reset.inst = t.inst ∧ DataCanonical State.reset ∧ DataCanonical t ∧
      memRead 0x024 State.reset ≠ memRead 0x024 t ∧ ∀ off, off ≠ 0x024 → memRead off State.reset = memRead off t := by
  refine ⟨rfl, ?_, ?_, by decide, fun off ho => ?_⟩
  · constructor <;> (unfold IsDatum; decide)
  · constructor <;> (unfold IsDatum; decide)
  · unfold memRead
    cases h : regAt off with
    | none => rfl
    | some r =>
      cases r <;> try rfl
      obtain ⟨e, he, hr⟩ := Option.map_eq_some_iff.mp h
      have hoff : e.1 = 0x024 :=
        (by decide : ∀ e ∈ regMap, e.2 = .timeUs → e.1 = 0x024) e (List.mem_of_find?_eq_some he) hr
      have hb : (e.1 == off) = true :=
        List.find?_some (p := fun e => e.1 == off) (l := regMap) he
      exact absurd ((eq_of_beq hb).symm.trans hoff) ho

/-- A rational strictly between the least 26-bit integer and the next, and a shift by one place. -/
theorem test_witness_RoundingIsNearestEven :
    (2 ^ 25 : Nat) ≤ 2 ^ 25 ∧ (((2 ^ 25 : Nat) : ℚ) < 2 ^ 25 + 1 / 2 ∧ (2 ^ 25 + 1 / 2 : ℚ) < (2 ^ 25 : Nat) + 1) ∧
      1 ≤ 1 := by norm_num

/-- Each clause: operands with a sum and a difference that are not zero, and that are; a divisor that is zero and one that
is not; a root; infinities of one sign and of both; a NaN on either side; a negative datum. -/
theorem test_witness_ArithmeticIsCorrectlyRounded :
    (F32.one.isFinite = true ∧ F32.three.isFinite = true ∧ signedValue F32.one + signedValue F32.three ≠ 0 ∧
      signedValue F32.one - signedValue F32.three ≠ 0 ∧ signedValue F32.three ≠ 0) ∧
      ((F32.zero true).isFinite = true ∧ (F32.zero false).isFinite = true ∧
        signedValue (F32.zero true) + signedValue (F32.zero true) = 0 ∧
        signedValue (F32.zero true) - signedValue (F32.zero false) = 0 ∧ signedValue (F32.zero false) = 0) ∧
      (F32.three.sign = false ∧ (F32.inf true).isInf = true ∧ (F32.inf false).isInf = true) ∧
      (⟨0x7F800001⟩ : F32).isNaN = true ∧ (⟨1⟩ : F32).isNaN = false ∧
      (⟨0x80000001⟩ : F32).sign = true ∧ (⟨0x80000001⟩ : F32).isZero = false := by
  simp only [signedValue, magnitudeValue]; decide +kernel

/-- IEEE values from outside the model: 1/3 rounds up to 0x3EAAAAAB and sqrt 3 down to 0x3FDDB3D7; the greatest finite
datum added to itself overflows; the least normal halved is subnormal. -/
theorem test_rounded_results :
    F32.div F32.one F32.three = ⟨0x3EAAAAAB⟩ ∧ F32.sqrt F32.three = ⟨0x3FDDB3D7⟩ ∧
      F32.add ⟨0x7F7FFFFF⟩ ⟨0x7F7FFFFF⟩ = ⟨0x7F800000⟩ ∧ F32.mul ⟨0x00800000⟩ ⟨0x3F000000⟩ = ⟨0x00400000⟩ := by
  decide +kernel

/-- The least and the greatest finite positive frequency. -/
theorem test_witness_LinearProfileIsExact :
    let c : RampCtx := { RampCtx.clear with fs := ⟨1⟩, fe := ⟨0x7F7FFFFF⟩ }
    c.prof = 0 ∧ c.fs.isFinite = true ∧ F32.gt c.fs ⟨0⟩ = true ∧ c.fe.isFinite = true ∧ F32.gt c.fe ⟨0⟩ = true := by
  decide +kernel

/-- An error of -1e30 (§1.10). -/
theorem test_witness_ZeroGainOutputIsMinimum :
    let c : Cfg := { Cfg.reset with pidKp := 0, pidKi := 0 }
    let sp : F32 := ⟨0⟩
    let pv : F32 := ⟨0x7149F2CA⟩
    c.pidKp = 0 ∧ c.pidKi = 0 ∧ c.pidKd = 0 ∧ (F32.sub sp pv).isFinite = true ∧
      (F32.div (F32.sub (F32.sub sp pv) ⟨0⟩) (F32.ofWord c.pidTsS)).isFinite = true ∧ posFinite c.pidTsS = true ∧
      posFinite c.pidOutMin = true ∧ F32.le (F32.ofWord c.pidIMin) ⟨0⟩ = true ∧
      F32.ge (F32.ofWord c.pidIMax) ⟨0⟩ = true := by decide +kernel

/-- A NaN and the least negative datum; 2^31 and the greatest datum below it; a raw delay below the minimum, above the
maximum, and between. -/
theorem test_witness_DelaysFitTheSlot :
    CfgLegal Cfg.reset ∧
      (F32.ge F32.nan ⟨0⟩ = false ∧ F32.ge ⟨0x80000001⟩ ⟨0⟩ = false) ∧
      (F32.ge ⟨0x4F000000⟩ ⟨0x4F000000⟩ = true ∧ F32.u31sat ⟨0x4F000000⟩ = 0x7FFFFFFF) ∧
      (F32.ge ⟨0x4EFFFFFF⟩ ⟨0⟩ = true ∧ F32.ge ⟨0x4EFFFFFF⟩ ⟨0x4F000000⟩ = false ∧
        F32.u31sat ⟨0x4EFFFFFF⟩ = 0x7FFFFF80) ∧
      commDelay Cfg.reset ⟨0x42180000⟩ = 20 ∧ commDelay Cfg.reset ⟨0x471C4200⟩ = 20000 ∧
      commDelay Cfg.reset ⟨0x44FA0000⟩ = 1000 :=
  ⟨test_cfg_reset_legal, by decide +kernel⟩

end Sys2Proof.Machine
end

section
/-! Data stay canonical (rule R14, log 10): every operation answers a datum with at most the one NaN, and every event
keeps each f32 element so. -/

namespace Sys2Proof.Machine

/-! ### The arithmetic answers data -/

theorem isDatum_of_not_isNaN {x : F32} (h : x.isNaN = false) : IsDatum x := fun hx => by simp [h] at hx

theorem isDatum_of_isFinite {x : F32} (h : x.isFinite = true) : IsDatum x :=
  isDatum_of_not_isNaN (F32.finite_class x h).1

theorem isDatum_of_isInf {x : F32} (h : x.isInf = true) : IsDatum x := isDatum_of_not_isNaN (F32.inf_class x h).1

theorem isDatum_nan : IsDatum F32.nan := fun _ => rfl

theorem isDatum_zeroPattern : IsDatum ⟨0⟩ := isDatum_of_not_isNaN (by decide)

theorem isDatum_f32Zero : IsDatum f32Zero := isDatum_zeroPattern

theorem isDatum_one : IsDatum F32.one := isDatum_of_not_isNaN (by decide)

theorem isDatum_ite {p : Prop} [Decidable p] {x y : F32} (hx : IsDatum x) (hy : IsDatum y) :
    IsDatum (if p then x else y) := by split <;> assumption

/-- A packed pattern up to that of infinity is no NaN. -/
theorem isDatum_pack (neg : Bool) {g : ℕ} (h : g ≤ 0x7F800000) : IsDatum (F32.pack neg g) := by
  have hg := (F32.pack_parts neg g (by omega)).1
  exact isDatum_of_not_isNaN (by simpa [F32.isNaN, hg] using h)

theorem isDatum_zero (neg : Bool) : IsDatum (F32.zero neg) := isDatum_pack neg (by norm_num)

theorem isDatum_inf (neg : Bool) : IsDatum (F32.inf neg) := isDatum_pack neg le_rfl

theorem isDatum_round (neg : Bool) (m : ℕ) (e : ℤ) (sticky : Bool) : IsDatum (F32.round neg m e sticky) := by
  unfold F32.round
  exact isDatum_ite (isDatum_zero neg) (isDatum_pack neg (Nat.min_le_right _ _))

theorem isDatum_canonical (x : F32) : IsDatum (F32.canonical x) := by
  unfold F32.canonical
  split
  · exact isDatum_nan
  · next h => exact isDatum_of_not_isNaN (by simpa using h)

theorem isDatum_ofWord (w : Word) : IsDatum (F32.ofWord w) := isDatum_canonical _

theorem isDatum_arg0F32 (s : State) : IsDatum (arg0F32 s) := isDatum_ofWord _

theorem isDatum_ofNat (n : ℕ) : IsDatum (F32.ofNat n) := isDatum_round _ _ _ _

theorem isDatum_abs (x : F32) : IsDatum (F32.abs x) := by
  unfold F32.abs
  split
  · exact isDatum_nan
  · next h => exact isDatum_pack _ (by simpa [F32.isNaN] using h)

theorem isDatum_add (a b : F32) : IsDatum (F32.add a b) := by
  unfold F32.add
  exact isDatum_ite isDatum_nan (isDatum_ite (isDatum_ite isDatum_nan (isDatum_inf _))
    (isDatum_ite (isDatum_inf _) (isDatum_ite (isDatum_zero _) (isDatum_round _ _ _ _))))

theorem isDatum_sub (a b : F32) : IsDatum (F32.sub a b) := isDatum_add _ _

theorem isDatum_mul (a b : F32) : IsDatum (F32.mul a b) := by
  unfold F32.mul
  exact isDatum_ite isDatum_nan (isDatum_ite (isDatum_ite isDatum_nan (isDatum_inf _)) (isDatum_round _ _ _ _))

theorem isDatum_div (a b : F32) : IsDatum (F32.div a b) := by
  unfold F32.div
  exact isDatum_ite isDatum_nan (isDatum_ite (isDatum_ite isDatum_nan (isDatum_inf _))
    (isDatum_ite (isDatum_zero _) (isDatum_ite (isDatum_ite isDatum_nan (isDatum_inf _)) (isDatum_round _ _ _ _))))

theorem isDatum_minf {a b : F32} (ha : IsDatum a) (hb : IsDatum b) : IsDatum (F32.minf a b) := isDatum_ite ha hb

theorem isDatum_maxf {a b : F32} (ha : IsDatum a) (hb : IsDatum b) : IsDatum (F32.maxf a b) := isDatum_ite ha hb

theorem isDatum_clampf {x lo hi : F32} (hx : IsDatum x) (hlo : IsDatum lo) (hhi : IsDatum hi) :
    IsDatum (F32.clampf x lo hi) := isDatum_ite hlo (isDatum_ite hhi hx)

/-- Clearing bit 23 leaves an exponent below that of infinity, so the limit of rule R19 is no NaN. -/
theorem isDatum_finitize (x : F32) : IsDatum (F32.finitize x) := by
  unfold F32.finitize
  split
  · next h => exact isDatum_of_isFinite h
  · have hbit : (x.pat &&& 0xFF7FFFFF).toNat.testBit 23 = false := by
      rw [BitVec.toNat_and, Nat.testBit_and]
      simp [Nat.testBit]
    have hdiv : (x.pat &&& 0xFF7FFFFF).toNat / 2 ^ 23 % 2 = 0 := by
      rw [Nat.testBit_eq_decide_div_mod_eq, decide_eq_false_iff_not] at hbit
      omega
    refine isDatum_of_not_isNaN ?_
    unfold F32.isNaN F32.magnitude
    rw [decide_eq_false_iff_not]
    dsimp only at hdiv ⊢
    generalize (x.pat &&& 0xFF7FFFFF).toNat = g at *
    omega

theorem isDatum_pow32 (x y : F32) : IsDatum (F32.pow32 x y) := by
  unfold F32.pow32
  split
  · exact isDatum_one
  · split
    · next h =>
      simp only [Bool.and_eq_true] at h
      obtain ⟨⟨_, hfinite⟩, _⟩ := h
      exact isDatum_of_isFinite hfinite
    · exact isDatum_ite (isDatum_finitize _) (isDatum_canonical _)

theorem isDatum_exp32 (x : F32) : IsDatum (F32.exp32 x) := by
  unfold F32.exp32
  exact isDatum_ite isDatum_one (isDatum_ite (isDatum_finitize _) (isDatum_canonical _))

theorem isDatum_freqOf (c : RampCtx) (r : F32) : IsDatum (freqOf c r) := by
  unfold freqOf
  split
  · exact isDatum_add _ _
  · exact isDatum_mul _ _
  · exact isDatum_add _ _
  · exact isDatum_sub _ _

theorem isDatum_dutyOf (c : RampCtx) (r : F32) : IsDatum (dutyOf c r) := isDatum_add _ _

theorem isDatum_slew (x s : F32) {c : F32} (hc : IsDatum c) : IsDatum (slew x c s) :=
  isDatum_ite (isDatum_minf (isDatum_add _ _) hc) (isDatum_ite (isDatum_maxf (isDatum_sub _ _) hc) hc)

theorem isDatum_filteredPeriod (s : State) (e : Word) : IsDatum (filteredPeriod s e) :=
  isDatum_ite (isDatum_add _ _) (isDatum_ofNat _)

theorem isDatum_pidIntegral (c : Cfg) (p : Pid) (e : F32) : IsDatum (pidIntegral c p e) :=
  isDatum_clampf (isDatum_add _ _) (isDatum_ofWord _) (isDatum_ofWord _)

theorem isDatum_pidOutput (c : Cfg) (p : Pid) (e : F32) : IsDatum (pidOutput c p e) :=
  isDatum_clampf (isDatum_add _ _) (isDatum_ofWord _) (isDatum_ofWord _)

/-! ### The shared procedures keep the data -/

/-- A register write reaches the interface and configuration registers only (rules R106, R107). -/
theorem writeReg_frame (r : Reg) (v : Word) (s : State) :
    writeReg r v s = { s with iface := (writeReg r v s).iface, cfg := (writeReg r v s).cfg } := by cases r <;> rfl

namespace DataCanonical

variable {s : State}

theorem cmdDone (h : DataCanonical s) (opc : BitVec 8) : DataCanonical (cmdDone opc s) := { h with }

theorem cmdError (h : DataCanonical s) (opc : BitVec 8) (code : CmdErr) : DataCanonical (cmdError opc code s) :=
  { h with }

theorem setArgs (h : DataCanonical s) (a0 a1 a2 a3 : Word) : DataCanonical (setArgs s a0 a1 a2 a3) := { h with }

theorem schedStart (h : DataCanonical s) (t d : Word) (tag : Tag) : DataCanonical (schedStart t d tag s) := { h with }

theorem schedCancel (h : DataCanonical s) : DataCanonical (schedCancel s) := { h with }

theorem applyCommutation (h : DataCanonical s) (k : StepIx) {duty : F32} (hduty : IsDatum duty) (d : Dir) (t : Word) :
    DataCanonical (applyCommutation k duty d t s) := { h with commDuty := hduty, invDuty := hduty }

theorem inverterDisable (h : DataCanonical s) : DataCanonical (inverterDisable s) := { h with }

theorem setOutputState (h : DataCanonical s) (p : HPhase) (o : OutState) : DataCanonical (setOutputState p o s) :=
  { h with }

theorem bemfReset (h : DataCanonical s) : DataCanonical (bemfReset s) :=
  { h with
    prevA := isDatum_f32Zero
    prevB := isDatum_f32Zero
    prevC := isDatum_f32Zero
    period := isDatum_f32Zero }

theorem rampClear (h : DataCanonical s) : DataCanonical (rampClear s) :=
  { h with
    rampFreq := isDatum_f32Zero
    rampDuty := isDatum_f32Zero
    ctxDs := isDatum_f32Zero
    ctxDe := isDatum_f32Zero
    ctxFs := isDatum_f32Zero
    ctxFe := isDatum_f32Zero
    ctxLogK := isDatum_f32Zero }

theorem pidReset (h : DataCanonical s) : DataCanonical (pidReset s) :=
  { h with
    pidInteg := isDatum_f32Zero
    pidPrevErr := isDatum_f32Zero
    pidLastOut := isDatum_f32Zero }

theorem clearRun (h : DataCanonical s) (cause : StopCause) : DataCanonical (clearRun cause s) :=
  { h with
    speedCmd := isDatum_f32Zero
    speedTarget := isDatum_f32Zero
    speedMeas := isDatum_f32Zero
    duty := isDatum_f32Zero
    revBuf := isDatum_f32Zero }

theorem safetyStop (h : DataCanonical s) (cause : StopCause) : DataCanonical (safetyStop cause s) :=
  h.schedCancel.inverterDisable.rampClear.clearRun cause

theorem enterAlignment (h : DataCanonical s) : DataCanonical (enterAlignment s) :=
  { h with
    speedMeas := isDatum_f32Zero
    speedTarget := isDatum_f32Zero }

theorem startRun (h : DataCanonical s) (t : Word) : DataCanonical (startRun t s) :=
  (h.schedCancel.rampClear.pidReset.enterAlignment.applyCommutation _ (isDatum_ofWord _) _ t).schedStart t _ .alignDone

theorem writeReg (h : DataCanonical s) (r : Reg) (v : Word) : DataCanonical (writeReg r v s) := by
  rw [writeReg_frame]
  exact { h with }

theorem memWrite (h : DataCanonical s) (off : ℕ) (v : Word) : DataCanonical (memWrite off v s) := by
  unfold Machine.memWrite
  split
  · exact h.writeReg _ v
  · exact h

theorem respond (h : DataCanonical s) (data : Word) (error : Bool) : DataCanonical (respond data error s) := { h with }

theorem takeInput (h : DataCanonical s) (t : Word) (rest : List InputRecord) : DataCanonical (takeInput t rest s) :=
  { h with }

/-! ### BEMF processing -/

theorem periodReject (h : DataCanonical s) (t : Word) : DataCanonical (periodReject t s) := { h with }

theorem periodAccept (h : DataCanonical s) (fp : CPhase) (e : Word) : DataCanonical (periodAccept fp e s) :=
  { h with period := isDatum_filteredPeriod s e }

theorem recordCrossing (h : DataCanonical s) (t : Word) : DataCanonical (recordCrossing t s) := { h with }

theorem zcTiming (h : DataCanonical s) (fp : CPhase) (t : Word) : DataCanonical (zcTiming fp t s) := by
  unfold Machine.zcTiming
  split
  · dsimp only
    split
    · exact h.periodReject t
    · exact (h.recordCrossing t).periodAccept fp _
  · exact { h with }

theorem storeSample (h : DataCanonical s) (fp : CPhase) {b : F32} (hb : IsDatum b) :
    DataCanonical (storeSample fp b s) := by
  cases fp
  · exact { h with prevA := hb }
  · exact { h with prevB := hb }
  · exact { h with prevC := hb }

theorem consumeSample (h : DataCanonical s) : DataCanonical (consumeSample s) := { h with }

theorem bemfProcess (h : DataCanonical s) (fp : CPhase) (t : Word) : DataCanonical (bemfProcess fp t s) := by
  have hstored := h.consumeSample.storeSample fp (isDatum_sub (phaseVoltage s fp) (virtualNeutral s))
  unfold Machine.bemfProcess
  split
  · dsimp only
    split
    · exact hstored.zcTiming fp t
    · exact hstored
  · exact h

/-! ### The ramp -/

theorem openRamp (h : DataCanonical s) (owner : Owner) (dir : Dir) : DataCanonical (openRamp owner dir s) :=
  { h with
    rampFreq := isDatum_ofWord _
    rampDuty := isDatum_ofWord _
    ctxDs := isDatum_ofWord _
    ctxDe := isDatum_ofWord _
    ctxFs := isDatum_ofWord _
    ctxFe := isDatum_ofWord _
    ctxLogK := isDatum_ofWord _ }

theorem scheduleStep (h : DataCanonical s) (t d : Word) : DataCanonical (scheduleStep t d s) := { h with }

theorem rampStart (h : DataCanonical s) (t : Word) (owner : Owner) (dir : Dir) :
    DataCanonical (rampStart t owner dir s) :=
  ((h.schedCancel.openRamp owner dir).applyCommutation 0 (isDatum_ofWord _) dir t).scheduleStep t _

theorem advance (h : DataCanonical s) (t : Word) {f d : F32} (hf : IsDatum f) (hd : IsDatum d) :
    DataCanonical (advance t f d s) :=
  have hramp : DataCanonical (advanceRamp f d s) := { h with rampFreq := hf, rampDuty := hd }
  (hramp.applyCommutation _ hd _ t).scheduleStep t _

theorem deactivateRamp (h : DataCanonical s) : DataCanonical (deactivateRamp s) := { h with }

theorem countRamp (h : DataCanonical s) : DataCanonical (countRamp s) := { h with }

theorem addElapsed (h : DataCanonical s) : DataCanonical (addElapsed s) := { h with }

theorem rampFinish (h : DataCanonical s) : DataCanonical (rampFinish s) := by
  have hdone := h.deactivateRamp.inverterDisable.countRamp
  unfold Machine.rampFinish
  dsimp only
  split
  · exact hdone.safetyStop .rampEnd
  · exact hdone

theorem rampStep (h : DataCanonical s) (t : Word) : DataCanonical (rampStep t s) := by
  unfold Machine.rampStep
  dsimp only
  split
  · exact h.addElapsed.rampFinish
  · exact h.addElapsed.advance t (isDatum_freqOf _ _) (isDatum_dutyOf _ _)

theorem rampStopSoft (h : DataCanonical s) : DataCanonical (rampStopSoft s) := h.schedCancel.deactivateRamp

/-! ### Commutation and the fast tick -/

theorem alignDone (h : DataCanonical s) (t : Word) : DataCanonical (alignDone t s) :=
  have hend : DataCanonical (endAlignment s) := { h with }
  hend.bemfReset.rampStart t _ _

theorem armFirstCl (h : DataCanonical s) (t : Word) : DataCanonical (armFirstCl t s) := { h with }

theorem enterClosedLoop (h : DataCanonical s) : DataCanonical (enterClosedLoop s) :=
  { h with
    speedTarget := h.speedMeas
    duty := h.hoDuty }

theorem handoverFire (h : DataCanonical s) (t : Word) : DataCanonical (handoverFire t s) :=
  (h.applyCommutation (s.ho.step + 1) h.hoDuty s.ho.dir t).enterClosedLoop.armFirstCl t

theorem captureRamp (h : DataCanonical s) : DataCanonical (captureRamp s) :=
  { h with hoDuty := isDatum_maxf h.rampDuty (isDatum_ofWord _) }

theorem handoverPlan (h : DataCanonical s) (t : Word) : DataCanonical (handoverPlan t s) := by
  unfold Machine.handoverPlan
  dsimp only
  split
  · exact h.captureRamp.handoverFire t
  · exact h.captureRamp.schedStart t _ .handover

theorem setStreak (h : DataCanonical s) (n : Half) : DataCanonical (setStreak n s) := { h with }

theorem handoverEval (h : DataCanonical s) (t : Word) : DataCanonical (handoverEval t s) := by
  unfold Machine.handoverEval
  dsimp only
  split
  · split
    · exact h.setStreak _
    · exact (h.setStreak _).handoverPlan t
  · exact h.setStreak 0

theorem clZc (h : DataCanonical s) (t : Word) : DataCanonical (clZc t s) := by
  unfold Machine.clZc
  split
  · exact { h with }
  · exact h

theorem clFire (h : DataCanonical s) (t : Word) : DataCanonical (clFire t s) :=
  have hcomm := h.applyCommutation (s.comm.step + 1) h.duty s.comm.dir t
  { hcomm with }

theorem clearZcFlag (h : DataCanonical s) : DataCanonical (clearZcFlag s) := { h with }

theorem smFast (h : DataCanonical s) (t : Word) : DataCanonical (smFast t s) := by
  unfold Machine.smFast
  split
  · split
    · exact h
    · dsimp only
      split
      · exact h.clearZcFlag.handoverEval t
      · exact h.clearZcFlag
    · exact h.clearZcFlag.clZc t
  · exact h

theorem stallCheck (h : DataCanonical s) (t : Word) : DataCanonical (stallCheck t s) := by
  unfold Machine.stallCheck
  split
  · exact h.safetyStop .stallTimeout
  · exact h

/-! ### The speed regulator -/

theorem measureSpeed (h : DataCanonical s) : DataCanonical (measureSpeed s) := by
  unfold Machine.measureSpeed
  split
  · exact { h with speedMeas := isDatum_div _ _ }
  · exact h

theorem rampTarget (h : DataCanonical s) : DataCanonical (rampTarget s) :=
  have htarget : IsDatum (Machine.rampTarget s).speed.target := by
    unfold Machine.rampTarget
    dsimp only
    split
    · exact isDatum_slew _ _ h.speedCmd
    · exact isDatum_f32Zero
    · exact isDatum_f32Zero
  { h with speedTarget := htarget }

theorem regulate (h : DataCanonical s) : DataCanonical (regulate s) := by
  unfold Machine.regulate
  split
  · exact { h with
      pidInteg := isDatum_pidIntegral _ _ _
      pidPrevErr := isDatum_sub _ _
      pidLastOut := isDatum_pidOutput _ _ _
      duty := isDatum_pidOutput _ _ _ }
  · exact h

theorem reversal (h : DataCanonical s) (t : Word) : DataCanonical (reversal t s) :=
  have hcmd : DataCanonical (applyReversal s.speed.revBuf (Machine.safetyStop .reversal s)) :=
    { h.safetyStop .reversal with speedCmd := h.revBuf }
  hcmd.startRun t

theorem setSpeed (h : DataCanonical s) (t : Word) (x : F32) : DataCanonical (setSpeed t x s) := by
  have hcommand {v : F32} (hv : IsDatum v) : DataCanonical (commandSpeed v s) :=
    { h with
      speedCmd := hv
      revBuf := isDatum_f32Zero }
  have hbuffer : DataCanonical (bufferReversal x.abs s) :=
    { h with
      speedCmd := isDatum_f32Zero
      revBuf := isDatum_abs x }
  have hbegin : DataCanonical (beginRun t (speedDir x) x.abs s) :=
    have hspeed : DataCanonical { s with speed := { s.speed with motorDir := speedDir x, cmd := x.abs } } :=
      { h with speedCmd := isDatum_abs x }
    hspeed.startRun t
  have hmoving : DataCanonical (if x.abs.isZero then commandSpeed f32Zero s
      else if speedDir x = s.speed.motorDir then commandSpeed x.abs s else bufferReversal x.abs s) := by
    split
    · exact hcommand isDatum_f32Zero
    · split
      · exact hcommand (isDatum_abs x)
      · exact hbuffer
  unfold Machine.setSpeed
  dsimp only
  split
  · split
    · exact { h with speedCmd := isDatum_f32Zero }
    · exact hbegin
  · exact hmoving
  · exact hmoving

end DataCanonical

/-! ### The events keep the data -/

theorem dataCanonical_reset : DataCanonical State.reset := by
  constructor <;> exact isDatum_f32Zero

/-- A command keeps the data when its effect does. -/
theorem command_keeps_data {opc : BitVec 8} {checks : List CmdErr} {effect : State → State} {s t : State}
    (h : command opc checks effect s = .next t) (hs : DataCanonical s) (heffect : DataCanonical (effect s)) :
    DataCanonical t := by
  rcases command_cases h with ⟨_, ho⟩ | ⟨_, ho⟩
  · cases ho; exact heffect.cmdDone opc
  · cases ho; exact hs.cmdError opc _

theorem execInvCommutate_keeps_data {d : Dir} {step : BitVec 3} {s t : State} (hs : DataCanonical s)
    (h : execInvCommutate d step s = .next t) : DataCanonical t := by
  unfold execInvCommutate at h
  split at h
  · cases h; exact hs.cmdError 0x30 .illegal
  · exact command_keeps_data h hs (hs.applyCommutation _ (isDatum_arg0F32 s) d s.env.time)

theorem execInvSetPhase_keeps_data {phase st : BitVec 3} {s t : State} (hs : DataCanonical s)
    (h : execInvSetPhase phase st s = .next t) : DataCanonical t := by
  unfold execInvSetPhase at h
  split at h
  · exact command_keeps_data h hs (hs.setOutputState _ _)
  · cases h; exact hs.cmdError 0x32 .illegal
  · cases h; exact hs.cmdError 0x32 .illegal

theorem execLowTick_keeps_data {s t : State} (hs : DataCanonical s) (h : execLowTick s = .next t) :
    DataCanonical t := by
  unfold execLowTick at h
  cases h
  split
  · exact hs.measureSpeed.reversal _
  · exact hs.measureSpeed.rampTarget.regulate

theorem execTimerExpire_keeps_data {s t : State} (hs : DataCanonical s) (h : execTimerExpire s = .next t) :
    DataCanonical t := by
  obtain rfl : t = dispatch s.sched.tag s.sched.deadline (schedCancel s) := by
    rcases execTimerExpire_cases s with ⟨_, _, ho⟩ | ⟨_, _, ho⟩ | ⟨_, ho⟩ <;> rw [ho] at h <;> cases h
    rfl
  have hc := hs.schedCancel
  rcases dispatch_cases s.sched.tag s.sched.deadline (schedCancel s) with
    ⟨_, _, hd⟩ | ⟨_, _, hd⟩ | ⟨_, _, hd⟩ | ⟨_, _, hd⟩ | ⟨_, hd⟩ | ⟨_, hd⟩ <;> rw [hd]
  · exact hc.alignDone _
  · exact hc.rampStep _
  · exact hc.handoverFire _
  · exact hc.clFire _
  · exact { hc with }
  · exact hc

theorem execReset_keeps_data {s t : State} (h : execReset s = .next t) : DataCanonical t := by
  cases h; exact { dataCanonical_reset with }

/-- Every command keeps the data. -/
theorem exec_keeps_data_of_command {i : Instr} (hi : i.isCommand = true) {s t : State} (hs : DataCanonical s)
    (h : exec i s = .next t) : DataCanonical t := by
  cases i with
  | nop =>
    unfold exec execNop at h
    exact command_keeps_data h hs hs
  | bemfInit =>
    unfold exec execBemfInit at h
    exact command_keeps_data h hs { hs.bemfReset with }
  | bemfReset =>
    unfold exec execBemfReset at h
    exact command_keeps_data h hs hs.bemfReset
  | bemfClearFlag =>
    unfold exec execBemfClearFlag at h
    exact command_keeps_data h hs hs.clearZcFlag
  | bemfGetStatus =>
    unfold exec execBemfGetStatus at h
    exact command_keeps_data h hs (hs.setArgs _ _ _ _)
  | schedStart =>
    unfold exec execSchedStart at h
    exact command_keeps_data h hs (hs.schedStart _ _ _)
  | schedCancel =>
    unfold exec execSchedCancel at h
    exact command_keeps_data h hs hs.schedCancel
  | schedIsActive =>
    unfold exec execSchedIsActive at h
    exact command_keeps_data h hs (hs.setArgs _ _ _ _)
  | rampStart d =>
    unfold exec execRampStart at h
    exact command_keeps_data h hs (hs.rampStart _ _ _)
  | rampStop =>
    unfold exec execRampStop at h
    exact command_keeps_data h hs hs.schedCancel.inverterDisable.rampClear
  | rampStopSoft =>
    unfold exec execRampStopSoft at h
    exact command_keeps_data h hs hs.rampStopSoft
  | rampGetState =>
    unfold exec execRampGetState at h
    exact command_keeps_data h hs (hs.setArgs _ _ _ _)
  | invCommutate d step => exact execInvCommutate_keeps_data hs h
  | invDisable =>
    unfold exec execInvDisable at h
    exact command_keeps_data h hs hs.inverterDisable
  | invSetPhase phase st => exact execInvSetPhase_keeps_data hs h
  | setSpeed =>
    unfold exec execSetSpeed at h
    exact command_keeps_data h hs (hs.setSpeed _ _)
  | motorStop =>
    unfold exec execMotorStop at h
    exact command_keeps_data h hs (hs.safetyStop _)
  | setSlope =>
    unfold exec execSetSlope at h
    exact command_keeps_data h hs { hs with }
  | faultClear =>
    unfold exec execFaultClear at h
    exact command_keeps_data h hs { hs with }
  | pidReset =>
    unfold exec execPidReset at h
    exact command_keeps_data h hs hs.pidReset
  | telemetry =>
    unfold exec execTelemetry at h
    exact command_keeps_data h hs (hs.setArgs _ _ _ _)
  | clearSticky =>
    unfold exec execClearSticky at h
    exact command_keeps_data h hs { hs with }
  | _ => simp [Instr.isCommand] at hi

theorem execHostWrite_keeps_data {off v : Word} {n : AccessWidth} {s t : State} (hs : DataCanonical s)
    (h : execHostWrite off v n s = .next t) : DataCanonical t := by
  have hresp := hs.respond 0 false
  rcases execHostWrite_cases off v n s with ⟨_, ho⟩ | ⟨_, _, ho⟩ | ⟨_, _, ho⟩ <;> rw [ho] at h
  · cases h; exact hs.respond 0 true
  · rcases runCommandWord_cases v (respond 0 false s) with ⟨_, _, hw⟩ | ⟨i, _, hi, hw⟩ | ⟨_, _, _, hw⟩ <;> rw [hw] at h
    · cases h; exact hresp.cmdError _ _
    · exact exec_keeps_data_of_command hi hresp h
    · cases h; exact hresp.cmdError _ _
  · cases h; exact hresp.memWrite _ _

theorem execHostRead_keeps_data {off : Word} {n : AccessWidth} {s t : State} (hs : DataCanonical s)
    (h : execHostRead off n s = .next t) : DataCanonical t := by
  unfold execHostRead at h
  split at h <;> cases h <;> exact hs.respond _ _

/-- Every instruction keeps the data. -/
theorem exec_keeps_data {i : Instr} {s t : State} (hs : DataCanonical s) (h : exec i s = .next t) :
    DataCanonical t := by
  by_cases hi : i.isCommand = true
  · exact exec_keeps_data_of_command hi hs h
  cases i with
  | reset => exact execReset_keeps_data h
  | adcSample => cases h; exact { hs with }
  | fastTick => cases h; exact ((hs.bemfProcess _ _).smFast _).stallCheck _
  | lowTick => exact execLowTick_keeps_data hs h
  | timerExpire => exact execTimerExpire_keeps_data hs h
  | faultIn => cases h; exact { hs.safetyStop .hardwareFault with }
  | hostWrite => exact execHostWrite_keeps_data hs h
  | hostRead => exact execHostRead_keeps_data hs h
  | timeAdvance => cases h; exact hs
  | _ => simp [Instr.isCommand] at hi

/-- Settles O43: every instruction keeps the data, and a step is the end of the input, an expiry, or one instruction. -/
theorem dataStayCanonical : Obligations.DataStayCanonical := by
  intro s t hs h
  rcases step_next_cases h with rfl | hexp | ⟨r, rest, i, _, _, hexec⟩
  · exact hs
  · exact execTimerExpire_keeps_data hs hexp
  · exact exec_keeps_data (hs.takeInput r.t rest) hexec

end Sys2Proof.Machine
end

section
/-! The state right after reset (rules R63, R530), and the answers of a host read (rules R31, R104, R105, R121). -/

namespace Sys2Proof.Machine

/-! ### Reset -/

/-- With nothing armed, pending or aligning, every guard is clear (rule R64). -/
theorem guardInv_reset : GuardInv State.reset where
  aligning := by unfold AligningPending; decide
  armed := by unfold ArmedPending; decide
  handover := by unfold HandoverArmed; decide
  transition := by unfold TransitionOpen; decide
  stopped := by unfold StoppedClear; decide
  slot := by unfold SlotTagged; decide
  float := by unfold FloatCommitted; decide

theorem cfgLegal_reset : CfgLegal Cfg.reset := by constructor <;> decide

/-- Settles O38. -/
theorem resetMeetsInvariants : Obligations.ResetMeetsInvariants := by
  have hidle : LoopRampIdle State.reset := fun _ => rfl
  have hfault : FaultOff State.reset := by unfold FaultOff AllHiZ; decide
  exact ⟨guardInv_reset, hidle, cfgLegal_reset, hfault, dataCanonical_reset⟩

/-! ### The map of rule R31 -/

theorem memRead_of_regAt {off : ℕ} {r : Reg} (h : regAt off = some r) (s : State) : memRead off s = readReg r s := by
  unfold memRead
  rw [h]

theorem memRead_of_regAt_none {off : ℕ} (h : regAt off = none) (s : State) : memRead off s = 0 := by
  unfold memRead
  rw [h]

/-- The register at an offset is one the map lists there. -/
theorem mem_regMap_of_regAt {off : ℕ} {r : Reg} (h : regAt off = some r) : (off, r) ∈ regMap := by
  unfold regAt at h
  obtain ⟨e, hfind, rfl⟩ := Option.map_eq_some_iff.mp h
  have hoff : e.1 = off := by simpa using List.find?_some hfind
  rw [← hoff]
  exact List.mem_of_find?_eq_some hfind

/-- The offsets that rule R31 reserves. -/
def ReservedOffset (off : ℕ) : Prop :=
  off = 0x00C ∨ (0x028 ≤ off ∧ off < 0x040) ∨ (0x060 ≤ off ∧ off < 0x080) ∨
    (0x0A0 ≤ off ∧ off < 0x0C0) ∨ (0x0EC ≤ off ∧ off < 0x100) ∨ (0x12C ≤ off ∧ off < 0x200) ∨
    (0x238 ≤ off ∧ off < 0x240) ∨ off = 0x24C ∨ (0x284 ≤ off ∧ off < 0x290) ∨
    (0x298 ≤ off ∧ off < 0x2A0) ∨ (0x2B4 ≤ off ∧ off < 0x2C0) ∨ (0x2CC ≤ off ∧ off < 0x2E0) ∨
    0x2F8 ≤ off

/-- No listed register stands at a reserved offset. -/
theorem not_reservedOffset_of_mem_regMap : ∀ e ∈ regMap, ¬ReservedOffset e.1 := by
  unfold ReservedOffset
  decide

theorem memRead_of_reserved {off : ℕ} (h : ReservedOffset off) (s : State) : memRead off s = 0 := by
  refine memRead_of_regAt_none ?_ s
  by_contra hne
  obtain ⟨r, hr⟩ := Option.ne_none_iff_exists'.mp hne
  exact not_reservedOffset_of_mem_regMap _ (mem_regMap_of_regAt hr) h

/-! ### What a read answers -/

/-- The three-bit step field read as a word is the step's number (rule R50). -/
theorem stepCode_setWidth (k : StepIx) : (stepCode k).setWidth 32 = BitVec.ofNat 32 k.val := by
  have hk := k.isLt
  apply BitVec.eq_of_toNat_eq
  simp only [stepCode, BitVec.toNat_setWidth, BitVec.toNat_ofNat]
  omega

/-- Every register of one element reads that element. -/
theorem memRead_plainRegisters (s : State) : ∀ e ∈ plainRegisters, memRead e.1 s = e.2 s := by
  have halign : memRead 0x0C0 s = BitVec.ofNat 32 s.cfg.alignStep.val := stepCode_setWidth s.cfg.alignStep
  simp only [plainRegisters, List.forall_mem_append, List.forall_mem_cons, List.not_mem_nil, false_imp_iff,
    implies_true, and_true, halign, true_and]
  repeat' apply And.intro
  all_goals rfl

/-- Inside the window an aligned access of four bytes is no access error (rule R102). -/
theorem accessError_eq_false {off : Word} (halign : off.toNat % 4 = 0) (hwindow : off.toNat < 0x400) :
    accessError off .four = false := by
  unfold accessError
  simp [halign, hwindow]

theorem exec_hostRead {off : Word} (halign : off.toNat % 4 = 0) (hwindow : off.toNat < 0x400) (s : State) :
    exec (.hostRead off .four) s = .next (answered (memRead off.toNat s) s) := by
  change execHostRead off .four s = _
  unfold execHostRead
  rw [accessError_eq_false halign hwindow]
  rfl

/-- `NUM_NAN` is the quiet pattern of its sign and payload (rule R8). -/
theorem numNaN_toNat (n : QuietNaN) :
    (numNaN n).toNat = 2 ^ 31 * n.negative.toNat + 0x7FC00000 + n.payload.toNat := by
  have hp := n.payload.isLt
  unfold numNaN
  rw [BitVec.toNat_append, ← Nat.shiftLeft_add_eq_or_of_lt hp]
  cases n.negative <;> simp

/-- Settles O34. -/
theorem hostReadAnswers : Obligations.HostReadAnswers := by
  refine ⟨fun off s halign hwindow => exec_hostRead halign hwindow s, fun s => ?_, fun p x => ?_⟩
  · exact ⟨memRead_plainRegisters s, rfl, rfl, rfl, fun off _ hreserved => memRead_of_reserved hreserved s⟩
  · unfold bits F32.isNaN F32.magnitude
    refine ⟨fun h => ?_, fun h => ?_⟩
    · rw [if_neg (by simpa using h)]
    · rw [if_pos (by simpa using h)]
      exact numNaN_toNat p.numNaN

end Sys2Proof.Machine
end

section
/-! Rounding (rule R14): `F32.round` gives the binary32 result of the exact value, plain or sticky.  The exact value is
brought to units of the result's last place, rounded to a nearest whole number of them, and packed; the order of
patterns then says that no finite datum is nearer. -/

namespace Sys2Proof.F32

/-! ### Rounding to units -/

/-- `w` is what `m` stands for: `m` itself, or, in the sticky form, a value strictly between `m` and `m + 1`. -/
def StandsFor (sticky : Bool) (m : ℕ) (w : ℚ) : Prop := if sticky then m < w ∧ w < m + 1 else w = m

theorem standsFor_exact (m : ℕ) : StandsFor false m m := rfl

theorem standsFor_sticky {m : ℕ} {w : ℚ} (hlo : m < w) (hhi : w < m + 1) : StandsFor true m w := ⟨hlo, hhi⟩

theorem StandsFor.le {sticky : Bool} {m : ℕ} {w : ℚ} (h : StandsFor sticky m w) : (m : ℚ) ≤ w := by
  cases sticky
  · exact le_of_eq h.symm
  · exact h.1.le

theorem StandsFor.lt {sticky : Bool} {m : ℕ} {w : ℚ} (h : StandsFor sticky m w) : w < m + 1 := by
  cases sticky
  · rw [show w = m from h]; exact lt_add_one _
  · exact h.2

/-- `u` units are nearest to `v`; of two whole numbers of units equally near it is the even one. -/
def IsNearest (u : ℕ) (v unit : ℚ) : Prop := 2 * |u * unit - v| ≤ unit ∧ (2 * |u * unit - v| = unit → u % 2 = 0)

theorem IsNearest.scale {u : ℕ} {v unit c : ℚ} (h : IsNearest u v unit) (hc : 0 < c) :
    IsNearest u (v * c) (unit * c) := by
  have herr : 2 * |u * (unit * c) - v * c| = 2 * |u * unit - v| * c := by
    rw [show u * (unit * c) - v * c = (u * unit - v) * c by ring, abs_mul, abs_of_pos hc]; ring
  unfold IsNearest
  rw [herr]
  exact ⟨mul_le_mul_of_nonneg_right h.1 hc.le, fun htie => h.2 (mul_right_cancel₀ hc.ne' htie)⟩

theorem isNearest_self (u : ℕ) {unit : ℚ} (hunit : 0 < unit) : IsNearest u (u * unit) unit := by
  constructor
  · simpa using hunit.le
  · intro h; simp at h; exact absurd h hunit.ne

/-- Dropping one place or more: the quotient is raised by one when the rest is past the half, or at the half with an odd
quotient or something below it. -/
theorem roundUnits_cases (m : ℕ) {shift : ℕ} (hshift : 1 ≤ shift) (sticky : Bool) :
    ∃ q rem half : ℕ, m = q * (2 * half) + rem ∧ rem < 2 * half ∧ 2 ^ shift = 2 * half ∧
      ((roundUnits m 0 (shift : ℤ) sticky = q + 1 ∧ (half < rem ∨ (rem = half ∧ (sticky = true ∨ q % 2 = 1)))) ∨
        (roundUnits m 0 (shift : ℤ) sticky = q ∧ ¬(half < rem ∨ (rem = half ∧ (sticky = true ∨ q % 2 = 1))))) := by
  have hunit : 2 ^ shift = 2 * 2 ^ (shift - 1) := by rw [← pow_succ', Nat.sub_add_cancel hshift]
  refine ⟨m / 2 ^ shift, m % 2 ^ shift, 2 ^ (shift - 1), ?_, ?_, hunit, ?_⟩
  · rw [← hunit, mul_comm]; exact (Nat.div_add_mod m _).symm
  · rw [← hunit]; exact Nat.mod_lt _ (by positivity)
  · unfold roundUnits
    rw [if_neg (by omega), show ((shift : ℤ) - 0).toNat = shift by omega]
    simp only [Nat.shiftRight_eq_div_pow]
    split
    · next h => exact .inl ⟨rfl, h⟩
    · next h => exact .inr ⟨rfl, h⟩

/-- Dropping one place or more rounds to a nearest whole number of units; a tie is exact, and its result even. -/
theorem roundUnits_error {m : ℕ} {shift : ℕ} (hshift : 1 ≤ shift) {sticky : Bool} {w : ℚ} (h : StandsFor sticky m w) :
    2 * |(roundUnits m 0 (shift : ℤ) sticky : ℚ) * 2 ^ shift - w| ≤ 2 ^ shift ∧
      (2 * |(roundUnits m 0 (shift : ℤ) sticky : ℚ) * 2 ^ shift - w| = 2 ^ shift →
        sticky = false ∧ roundUnits m 0 (shift : ℤ) sticky % 2 = 0) := by
  obtain ⟨q, rem, half, hm, hrem, hunit, hcases⟩ := roundUnits_cases m hshift sticky
  have hm' : (m : ℚ) = q * (2 * half) + rem := by exact_mod_cast hm
  have hrem' : (rem : ℚ) + 1 ≤ 2 * half := by exact_mod_cast hrem
  have hunit' : (2 : ℚ) ^ shift = 2 * half := by exact_mod_cast hunit
  have hlo := h.le
  have hhi := h.lt
  rw [hunit']
  rcases hcases with ⟨hu, hup⟩ | ⟨hu, hdown⟩ <;> rw [hu]
  · have habs : |((q + 1 : ℕ) : ℚ) * (2 * half) - w| = ((q + 1 : ℕ) : ℚ) * (2 * half) - w :=
      abs_of_nonneg (by push_cast; linarith)
    rw [habs]
    push_cast
    rcases hup with hlt | ⟨heq, hodd⟩
    · have hlt' : (half : ℚ) + 1 ≤ rem := by exact_mod_cast hlt
      exact ⟨by linarith, fun htie => by linarith⟩
    · rw [heq] at hm'
      refine ⟨by linarith, fun htie => ?_⟩
      cases sticky with
      | true => have := h.1; linarith
      | false => simp only [Bool.false_eq_true, false_or] at hodd; exact ⟨rfl, by omega⟩
  · have habs : |(q : ℚ) * (2 * half) - w| = w - q * (2 * half) := by
      rw [abs_sub_comm]; exact abs_of_nonneg (by have : (0 : ℚ) ≤ rem := Nat.cast_nonneg _; linarith)
    rw [habs]
    push Not at hdown
    obtain ⟨hle, heven⟩ := hdown
    rcases hle.lt_or_eq with hlt | heq
    · have hlt' : (rem : ℚ) + 1 ≤ half := by exact_mod_cast hlt
      exact ⟨by linarith, fun htie => by linarith⟩
    · rw [heq] at hm'
      obtain ⟨hexact, heven⟩ := heven heq
      cases sticky with
      | true => exact absurd rfl hexact
      | false => have hw : w = m := h; exact ⟨by linarith, fun _ => ⟨rfl, by omega⟩⟩

/-- Rounding `w * 2^e` to units `2^lsb` gives a nearest whole number of them; a sticky value needs a place to drop. -/
theorem roundUnits_nearest {m : ℕ} {e lsb : ℤ} {sticky : Bool} {w : ℚ} (h : StandsFor sticky m w)
    (hdrop : sticky = true → e < lsb) : IsNearest (roundUnits m e lsb sticky) (w * 2 ^ e) (2 ^ lsb) := by
  rcases lt_or_ge e lsb with hlt | hge
  · obtain ⟨shift, hshift⟩ := Int.eq_ofNat_of_zero_le (sub_nonneg.mpr hlt.le)
    obtain ⟨hle, htie⟩ := roundUnits_error (m := m) (shift := shift) (by omega) h
    have hunit : (2 : ℚ) ^ lsb = 2 ^ shift * 2 ^ e := by
      rw [← zpow_natCast, ← zpow_add₀ two_ne_zero]; congr 1; omega
    rw [roundUnits_shift m shift e lsb sticky hshift, hunit]
    exact IsNearest.scale ⟨hle, fun heq => (htie heq).2⟩ (by positivity)
  · cases sticky with
    | true => exact absurd (hdrop rfl) (by omega)
    | false =>
      obtain ⟨shift, hshift⟩ := Int.eq_ofNat_of_zero_le (sub_nonneg.mpr hge)
      have hunits : roundUnits m e lsb false = m * 2 ^ shift := by
        unfold roundUnits
        rw [if_pos hge, hshift, Int.toNat_natCast, Nat.shiftLeft_eq]
      have hvalue : w * 2 ^ e = (m * 2 ^ shift : ℕ) * (2 : ℚ) ^ lsb := by
        rw [show w = m from h, show e = (shift : ℤ) + lsb by omega, zpow_add₀ two_ne_zero, zpow_natCast]
        push_cast; ring
      rw [hunits, hvalue]
      exact isNearest_self _ (by positivity)

end Sys2Proof.F32

namespace Sys2Proof.Machine

open Sys2Proof.F32 (IsNearest StandsFor)

/-! ### The nearest pattern -/

/-- The unit of the last place at exponent `k`, counted from 2^-149. -/
def lastPlace (k : ℕ) : ℚ := 2 ^ k / 2 ^ 149

theorem lastPlace_pos (k : ℕ) : 0 < lastPlace k := by unfold lastPlace; positivity

theorem lastPlace_succ (k : ℕ) : lastPlace (k + 1) = 2 * lastPlace k := by unfold lastPlace; rw [pow_succ]; ring

theorem lastPlace_mono {j k : ℕ} (h : j ≤ k) : lastPlace j ≤ lastPlace k := by
  unfold lastPlace
  gcongr
  norm_num

theorem lastPlace_eq_zpow {lsb : ℤ} (h : -149 ≤ lsb) : lastPlace (lsb + 149).toNat = 2 ^ lsb := by
  unfold lastPlace
  rw [← zpow_natCast, ← zpow_natCast, ← zpow_sub₀ two_ne_zero]
  congr 1
  push_cast
  omega

theorem patternValue_lastPlace {k u : ℕ} (hu : u ≤ 2 ^ 24) (h : k = 0 ∨ 2 ^ 23 ≤ u) :
    patternValue (k * 2 ^ 23 + u) = u * lastPlace k := by
  rw [patternValue_units k u hu h, lastPlace]; ring

/-- `v` lies in the range of exponent `k` and `u` last places are nearest to it. -/
structure RoundsTo (v : ℚ) (k u : ℕ) : Prop where
  nearest : IsNearest u v (lastPlace k)
  normal : k = 0 ∨ 2 ^ 23 * lastPlace k ≤ v
  bound : v < 2 ^ 24 * lastPlace k

namespace RoundsTo

variable {v : ℚ} {k u : ℕ}

theorem error_le (h : RoundsTo v k u) :
    u * lastPlace k - v ≤ lastPlace k / 2 ∧ v - u * lastPlace k ≤ lastPlace k / 2 := by
  have hle := h.nearest.1
  have hlo := le_abs_self (u * lastPlace k - v)
  have hhi := neg_abs_le (u * lastPlace k - v)
  constructor <;> linarith

theorem units_le (h : RoundsTo v k u) : u ≤ 2 ^ 24 := by
  have hlt : (u : ℚ) * lastPlace k < (2 ^ 24 + 1 : ℕ) * lastPlace k := by
    have := h.error_le.1
    have := h.bound
    have := lastPlace_pos k
    push_cast
    linarith
  have := lt_of_mul_lt_mul_right hlt (lastPlace_pos k).le
  exact Nat.lt_succ_iff.mp (by exact_mod_cast this)

theorem units_ge (h : RoundsTo v k u) : k = 0 ∨ 2 ^ 23 ≤ u := by
  refine h.normal.imp_right fun hv => ?_
  have hlt : ((2 ^ 23 : ℕ) : ℚ) * lastPlace k < (u + 1 : ℕ) * lastPlace k := by
    have := h.error_le.2
    have := lastPlace_pos k
    push_cast
    linarith
  have := lt_of_mul_lt_mul_right hlt (lastPlace_pos k).le
  exact Nat.lt_succ_iff.mp (by exact_mod_cast this)

theorem patternValue_eq (h : RoundsTo v k u) : patternValue (k * 2 ^ 23 + u) = u * lastPlace k :=
  patternValue_lastPlace h.units_le h.units_ge

/-- The next pattern up is a last place away or more. -/
theorem above (h : RoundsTo v k u) {g : ℕ} (hg : k * 2 ^ 23 + u < g) : (u + 1) * lastPlace k ≤ patternValue g := by
  have hmono : patternValue (k * 2 ^ 23 + u + 1) ≤ patternValue g := patternValue_strictMono.monotone hg
  refine le_trans ?_ hmono
  have hu := h.units_le
  rcases hu.lt_or_eq with hlt | rfl
  · rw [add_assoc, patternValue_lastPlace (by omega) (h.units_ge.imp_right fun _ => by omega)]
    push_cast
    exact le_rfl
  · rw [show k * 2 ^ 23 + 2 ^ 24 + 1 = (k + 1) * 2 ^ 23 + (2 ^ 23 + 1) by ring,
      patternValue_lastPlace (by norm_num) (by norm_num), lastPlace_succ]
    have := lastPlace_pos k
    push_cast
    linarith

/-- The next pattern down is a last place away or more, but below the least significand of an exponent, where the exact
value is not on its side. -/
theorem below (h : RoundsTo v k u) {g : ℕ} (hg : g < k * 2 ^ 23 + u) :
    patternValue g ≤ (u - 1) * lastPlace k ∨ u * lastPlace k ≤ v := by
  have hmono : patternValue g ≤ patternValue (k * 2 ^ 23 + u - 1) := patternValue_strictMono.monotone (by omega)
  have hu := h.units_le
  by_cases hlow : k = 0 ∨ 2 ^ 23 < u
  · left
    have hpos : 1 ≤ u := by omega
    rw [Nat.add_sub_assoc hpos, patternValue_lastPlace (by omega) (by omega)] at hmono
    rw [Nat.cast_sub hpos] at hmono
    exact_mod_cast hmono
  · right
    have hge := h.units_ge
    obtain rfl : u = 2 ^ 23 := by omega
    have hnormal := h.normal.resolve_left (by omega)
    push_cast
    exact hnormal

/-- No other pattern's value is nearer, and one as near means a tie, which the even pattern wins. -/
theorem nearest_pattern (h : RoundsTo v k u) {g : ℕ} (hg : g ≠ k * 2 ^ 23 + u) :
    |patternValue (k * 2 ^ 23 + u) - v| < |patternValue g - v| ∨
      (|patternValue (k * 2 ^ 23 + u) - v| = |patternValue g - v| ∧ (k * 2 ^ 23 + u) % 2 = 0) := by
  obtain ⟨hle, htie⟩ := h.nearest
  have hpos := lastPlace_pos k
  have hfar : lastPlace k / 2 ≤ |patternValue g - v| ∨ |patternValue (k * 2 ^ 23 + u) - v| < |patternValue g - v| := by
    rw [h.patternValue_eq]
    have herr := h.error_le
    rcases lt_or_gt_of_ne hg with hlt | hgt
    · rcases h.below hlt with hb | hb
      · exact .inl (le_trans (by linarith) (neg_le_abs _))
      · have hstrict : patternValue g < u * lastPlace k := by
          rw [← h.patternValue_eq]; exact patternValue_strictMono hlt
        refine .inr (lt_of_lt_of_le ?_ (neg_le_abs _))
        rw [abs_of_nonpos (by linarith)]
        linarith
    · exact .inl (le_trans (by have := h.above hgt; linarith) (le_abs_self _))
  rcases hfar with hfar | hlt
  · rw [h.patternValue_eq]
    rcases lt_or_eq_of_le (show |u * lastPlace k - v| ≤ |patternValue g - v| by linarith) with hlt | heq
    · exact .inl hlt
    · have := htie (by linarith)
      exact .inr ⟨heq, by omega⟩
  · exact .inl hlt

/-- The packed pattern reaches that of infinity from half a last place above the greatest finite datum on. -/
theorem overflow_iff (h : RoundsTo v k u) : k * 2 ^ 23 + u < 0x7F800000 ↔ v < 2 ^ 128 - 2 ^ 103 := by
  have hu := h.units_le
  have hnorm := h.units_ge
  obtain ⟨_, herr⟩ := h.error_le
  have h253 : lastPlace 253 = 2 ^ 104 := by norm_num [lastPlace]
  constructor
  · intro hg
    by_contra hv
    have hplace : lastPlace k ≤ 2 ^ 104 := h253 ▸ lastPlace_mono (by omega)
    have hmax : patternValue 0x7F7FFFFF = 2 ^ 128 - 2 ^ 104 := by norm_num [patternValue]
    have hge : 0x7F7FFFFF ≤ k * 2 ^ 23 + u := by
      rw [← patternValue_strictMono.le_iff_le, hmax, h.patternValue_eq]
      linarith
    obtain ⟨rfl, rfl⟩ : k = 253 ∧ u = 2 ^ 24 - 1 := by omega
    have htie : (2 ^ 24 - 1) % 2 = 0 := by
      refine h.nearest.2 (le_antisymm h.nearest.1 ?_)
      have := neg_abs_le (((2 ^ 24 - 1 : ℕ) : ℚ) * lastPlace 253 - v)
      rw [h253] at *
      push_cast at *
      linarith
    omega
  · intro hv
    by_contra hg
    by_cases hk : k = 253
    · subst hk
      obtain rfl : u = 2 ^ 24 := by omega
      have := h.error_le.1
      rw [h253] at this
      push_cast at this
      linarith
    · have hnormal := h.normal.resolve_left (by omega)
      have hplace : lastPlace 254 ≤ lastPlace k := lastPlace_mono (by omega)
      have h254 : lastPlace 254 = 2 ^ 105 := by norm_num [lastPlace]
      linarith

/-- Packing the nearest units gives the binary32 result. -/
theorem isRounding_pack (h : RoundsTo v k u) (neg : Bool) :
    IsRounding v neg (F32.pack neg (min (k * 2 ^ 23 + u) 0x7F800000)) := by
  obtain ⟨hmag, hsign⟩ := F32.pack_parts neg (min (k * 2 ^ 23 + u) 0x7F800000) (by omega)
  refine ⟨hsign, ?_⟩
  split
  · next hv =>
    have hg := h.overflow_iff.mpr hv
    rw [min_eq_left hg.le] at hmag ⊢
    refine ⟨by rw [F32.isFinite, hmag]; exact decide_eq_true hg, fun y _ hne => ?_⟩
    rw [magnitudeValue_pattern, magnitudeValue_pattern, hmag] at *
    rw [F32.pack_even]
    exact h.nearest_pattern fun heq => hne (by rw [heq])
  · next hv =>
    have hg : 0x7F800000 ≤ k * 2 ^ 23 + u := not_lt.mp fun hg => hv (h.overflow_iff.mp hg)
    rw [min_eq_right hg] at hmag ⊢
    simp [F32.isInf, hmag]

end RoundsTo

/-! ### `F32.round` -/

/-- Zero is its own binary32 result. -/
theorem isRounding_zero (neg : Bool) : IsRounding 0 neg (F32.zero neg) := by
  have hzero : RoundsTo 0 0 0 :=
    { nearest := by simpa using F32.isNearest_self 0 (lastPlace_pos 0)
      normal := .inl rfl
      bound := mul_pos (by norm_num) (lastPlace_pos 0) }
  exact hzero.isRounding_pack neg

/-- The unit that `F32.round` chooses brings the value to 24 bits, or to the last place of the subnormals. -/
theorem roundsTo_roundUnits {m : ℕ} (hm : m ≠ 0) (e : ℤ) {sticky : Bool} {w : ℚ} (h : StandsFor sticky m w)
    (hbits : sticky = true → 2 ^ 25 ≤ m) :
    let lsb : ℤ := max (e + m.log2 - 23) (-149)
    RoundsTo (w * 2 ^ e) (lsb + 149).toNat (F32.roundUnits m e lsb sticky) := by
  intro lsb
  have hlsb : -149 ≤ lsb := le_max_right _ _
  have hlsb' : e + m.log2 - 23 ≤ lsb := le_max_left _ _
  have hpow : ∀ j : ℤ, (2 : ℚ) ^ j * 2 ^ e = 2 ^ (j + e) := fun j => (zpow_add₀ two_ne_zero j e).symm
  have hlo : (2 : ℚ) ^ (m.log2 : ℤ) ≤ w := by
    refine le_trans ?_ h.le
    rw [zpow_natCast]
    exact_mod_cast Nat.log2_self_le hm
  have hhi : w < (2 : ℚ) ^ (m.log2 + 1 : ℤ) := by
    refine lt_of_lt_of_le h.lt ?_
    have : m + 1 ≤ 2 ^ (m.log2 + 1) := Nat.lt_log2_self
    exact_mod_cast this
  refine ⟨?_, ?_, ?_⟩
  · rw [lastPlace_eq_zpow hlsb]
    refine F32.roundUnits_nearest h fun hs => ?_
    have : 25 ≤ m.log2 := (Nat.le_log2 hm).mpr (hbits hs)
    omega
  · rcases max_cases (e + m.log2 - 23) (-149) with ⟨heq, _⟩ | ⟨heq, _⟩
    · right
      rw [lastPlace_eq_zpow hlsb, show lsb = m.log2 + e - 23 from heq.trans (by ring), zpow_sub₀ two_ne_zero, ← hpow]
      refine le_trans (le_of_eq ?_) (mul_le_mul_of_nonneg_right hlo (by positivity))
      norm_num
      ring
    · left
      omega
  · rw [lastPlace_eq_zpow hlsb]
    calc w * 2 ^ e < 2 ^ (m.log2 + 1 : ℤ) * 2 ^ e := mul_lt_mul_of_pos_right hhi (by positivity)
      _ = 2 ^ (m.log2 + 1 + e : ℤ) := hpow _
      _ ≤ 2 ^ (24 + lsb) := zpow_le_zpow_right₀ (by norm_num) (by omega)
      _ = 2 ^ 24 * 2 ^ lsb := zpow_add₀ two_ne_zero _ _

/-- `F32.round` gives the binary32 result of what its operands stand for. -/
theorem isRounding_round (neg : Bool) {m : ℕ} (e : ℤ) {sticky : Bool} {w : ℚ} (h : StandsFor sticky m w)
    (hbits : sticky = true → 2 ^ 25 ≤ m) : IsRounding (w * 2 ^ e) neg (F32.round neg m e sticky) := by
  unfold F32.round
  split
  · next hm =>
    subst hm
    cases sticky with
    | true => exact absurd (hbits rfl) (by norm_num)
    | false => rw [show w = (0 : ℕ) from h, Nat.cast_zero, zero_mul]; exact isRounding_zero neg
  · next hm => exact (roundsTo_roundUnits hm e h hbits).isRounding_pack neg

/-- Rounding `m` to units of `2^shift` gives a nearest integer, and the even one of two. -/
theorem roundUnits_isNearest (m shift : ℕ) : IsNearest (F32.roundUnits m 0 (shift : ℤ) false) m (2 ^ shift) := by
  have h := F32.roundUnits_nearest (e := 0) (lsb := (shift : ℤ)) (F32.standsFor_exact m) (by simp)
  rwa [zpow_zero, mul_one, zpow_natCast] at h

/-- Settles O55. -/
theorem roundingIsNearestEven : Obligations.RoundingIsNearestEven := by
  refine ⟨fun m shift => ?_, fun m shift v hshift hlo hhi => ?_, fun neg m e => ?_, fun neg m e v hbits hlo hhi => ?_⟩
  · obtain ⟨hle, htie⟩ := roundUnits_isNearest m shift
    have htie' : 2 * |((F32.roundUnits m 0 (shift : ℤ) false : ℤ)) * 2 ^ shift - m| = 2 ^ shift →
        F32.roundUnits m 0 (shift : ℤ) false % 2 = 0 := fun h => htie (by exact_mod_cast h)
    exact ⟨by exact_mod_cast hle, fun h => by have := htie' h; omega⟩
  · obtain ⟨hle, htie⟩ := F32.roundUnits_error hshift (F32.standsFor_sticky hlo hhi)
    exact lt_of_le_of_ne hle fun heq => Bool.noConfusion (htie heq).1
  · exact isRounding_round neg e (F32.standsFor_exact m) (by simp)
  · exact isRounding_round neg e (F32.standsFor_sticky hlo hhi) fun _ => hbits

end Sys2Proof.Machine
end

section
/-! The arithmetic against exact values (rules R14 to R17): each operation on finite data is the rounding of the exact
result, the comparisons are those of the exact values, and infinities and NaNs follow IEEE 754.  Then `u31sat` and the
delays made from it (rules R250, R280, R353). -/

namespace Sys2Proof.F32

/-! ### Signs and classes -/

/-- A datum is its sign and its magnitude. -/
theorem pack_sign_magnitude (x : F32) : pack x.sign x.magnitude = x := by
  obtain ⟨p⟩ := x
  have hp := p.isLt
  unfold pack sign magnitude
  congr 1
  apply BitVec.eq_of_toNat_eq
  rw [BitVec.getLsbD, Nat.testBit_eq_decide_div_mod_eq, BitVec.toNat_ofNat]
  split <;> next h => rw [decide_eq_true_eq] at h; dsimp only at *; omega

theorem inf_sign_eq {x : F32} (h : x.isInf = true) : inf x.sign = x := by
  have hm : x.magnitude = 0x7F800000 := of_decide_eq_true h
  rw [inf, ← hm, pack_sign_magnitude]

theorem neg_parts {x : F32} (h : x.isNaN = false) : (neg x).magnitude = x.magnitude ∧ (neg x).sign = !x.sign := by
  unfold neg
  rw [if_neg (by simp [h])]
  exact pack_parts _ _ x.magnitude_lt

theorem neg_isFinite {x : F32} (h : x.isFinite = true) : (neg x).isFinite = true := by
  unfold isFinite at *
  rwa [(neg_parts (finite_class x h).1).1]

theorem neg_isInf {x : F32} (h : x.isInf = true) : (neg x).isInf = true := by
  unfold isInf at *
  rwa [(neg_parts (inf_class x h).1).1]

theorem neg_of_isNaN {x : F32} (h : x.isNaN = true) : neg x = nan := if_pos h

theorem isZero_iff_mant (x : F32) : x.isZero = true ↔ x.mant = 0 := by
  rw [mant_eq_zero, isZero, decide_eq_true_eq]

/-! ### What each operation computes on finite data -/

/-- The sum of two data in units of the lesser last place. -/
def alignedSum (a b : F32) : ℤ :=
  a.signedMant * (2 ^ (a.ex - min a.ex b.ex) : ℕ) + b.signedMant * (2 ^ (b.ex - min a.ex b.ex) : ℕ)

theorem add_of_finite {a b : F32} (ha : a.isFinite = true) (hb : b.isFinite = true) :
    add a b =
      if alignedSum a b = 0 then zero (a.sign && b.sign)
      else round (decide (alignedSum a b < 0)) (alignedSum a b).natAbs ((min a.ex b.ex : ℕ) - 149) false := by
  simp [add, alignedSum, finite_class a ha, finite_class b hb]

theorem mul_of_finite {a b : F32} (ha : a.isFinite = true) (hb : b.isFinite = true) :
    mul a b = round (a.sign != b.sign) (a.mant * b.mant) ((a.ex : ℤ) + b.ex - 298) false := by
  simp [mul, finite_class a ha, finite_class b hb]

theorem div_of_finite {a b : F32} (ha : a.isFinite = true) (hb : b.isFinite = true) (hz : b.isZero = false) :
    div a b =
      round (a.sign != b.sign) (a.mant * 2 ^ 50 / b.mant) ((a.ex : ℤ) - b.ex - 50)
        (decide (a.mant * 2 ^ 50 % b.mant ≠ 0)) := by
  simp [div, finite_class a ha, finite_class b hb, hz, Nat.shiftLeft_eq]

theorem div_by_zero {a b : F32} (ha : a.isFinite = true) (hb : b.isFinite = true) (hz : b.isZero = true) :
    div a b = if a.isZero = true then nan else inf (xor a.sign b.sign) := by
  simp [div, finite_class a ha, finite_class b hb, hz]

/-- A whole quotient stands for the exact one, sticky when there is a rest. -/
theorem standsFor_div (n : ℕ) {d : ℕ} (hd : 0 < d) : StandsFor (decide (n % d ≠ 0)) (n / d) ((n : ℚ) / d) := by
  have hd' : (0 : ℚ) < d := by exact_mod_cast hd
  have hn : (n : ℚ) = d * (n / d : ℕ) + (n % d : ℕ) := by exact_mod_cast (Nat.div_add_mod n d).symm
  have hquot : (n : ℚ) / d = (n / d : ℕ) + (n % d : ℕ) / d := by rw [hn]; field_simp
  rw [hquot]
  by_cases hr : n % d = 0
  · rw [hr]
    simp [StandsFor]
  · have hlt : ((n % d : ℕ) : ℚ) < d := by exact_mod_cast Nat.mod_lt n hd
    have hpos : (0 : ℚ) < (n % d : ℕ) := by exact_mod_cast Nat.pos_of_ne_zero hr
    rw [decide_eq_true hr]
    refine standsFor_sticky (lt_add_of_pos_right _ (by positivity)) ?_
    gcongr
    exact (div_lt_one hd').mpr hlt

end Sys2Proof.F32

namespace Sys2Proof.Machine

/-! ### Exact values -/

theorem signedValue_abs (x : F32) : |signedValue x| = magnitudeValue x := by
  unfold signedValue
  have := magnitudeValue_nonneg x
  split
  · rw [abs_neg, abs_of_nonneg this]
  · rw [abs_of_nonneg this]

theorem magnitudeValue_eq_zero_iff (x : F32) : magnitudeValue x = 0 ↔ x.isZero = true := by
  rw [magnitudeValue_eq, F32.isZero_iff_mant, mul_eq_zero, Nat.cast_eq_zero]
  exact or_iff_left (zpow_ne_zero _ two_ne_zero)

theorem signedValue_eq_zero_iff (x : F32) : signedValue x = 0 ↔ x.isZero = true := by
  rw [← magnitudeValue_eq_zero_iff, ← signedValue_abs, abs_eq_zero]

theorem signedValue_neg {x : F32} (h : x.isNaN = false) : signedValue (F32.neg x) = -signedValue x := by
  obtain ⟨hmag, hsign⟩ := F32.neg_parts h
  unfold signedValue
  rw [hsign, magnitudeValue_pattern, magnitudeValue_pattern, hmag]
  cases x.sign <;> simp

/-- The exact value that a key of the order stands for. -/
def keyValue (k : ℤ) : ℚ := if k < 0 then -patternValue k.natAbs else patternValue k.natAbs

theorem patternValue_nonneg (g : ℕ) : 0 ≤ patternValue g := by
  have hzero : patternValue 0 = 0 := by norm_num [patternValue]
  exact hzero ▸ patternValue_strictMono.monotone g.zero_le

theorem keyValue_strictMono : StrictMono keyValue := by
  intro j k hjk
  unfold keyValue
  split <;> split
  · exact neg_lt_neg (patternValue_strictMono (by omega))
  · have hpos : 0 < patternValue j.natAbs :=
      lt_of_le_of_lt (patternValue_nonneg 0) (patternValue_strictMono (by omega))
    exact lt_of_lt_of_le (neg_lt_zero.mpr hpos) (patternValue_nonneg _)
  · omega
  · exact patternValue_strictMono (by omega)

theorem signedValue_key (x : F32) : signedValue x = keyValue x.key := by
  unfold signedValue keyValue F32.key
  rw [magnitudeValue_pattern]
  cases x.sign
  · simp
  · by_cases hz : x.magnitude = 0
    · norm_num [hz, patternValue]
    · simp [Nat.pos_of_ne_zero hz]

/-! ### Comparisons -/

section
variable {a b : F32} (ha : a.isFinite = true) (hb : b.isFinite = true)
include ha hb

theorem lt_iff_signedValue : F32.lt a b = true ↔ signedValue a < signedValue b := by
  rw [signedValue_key, signedValue_key, keyValue_strictMono.lt_iff_lt]
  simp [F32.lt, F32.finite_class a ha, F32.finite_class b hb]

theorem le_iff_signedValue : F32.le a b = true ↔ signedValue a ≤ signedValue b := by
  rw [signedValue_key, signedValue_key, keyValue_strictMono.le_iff_le]
  simp [F32.le, F32.finite_class a ha, F32.finite_class b hb]

theorem eq_iff_signedValue : F32.eq a b = true ↔ signedValue a = signedValue b := by
  rw [signedValue_key, signedValue_key, keyValue_strictMono.injective.eq_iff]
  simp [F32.eq, F32.finite_class a ha, F32.finite_class b hb]

end

/-! ### Sum and difference -/

theorem signedValue_add (a b : F32) :
    signedValue a + signedValue b = F32.alignedSum a b * 2 ^ (((min a.ex b.ex : ℕ) : ℤ) - 149) := by
  have hscale : ∀ j : ℕ, min a.ex b.ex ≤ j →
      (2 : ℚ) ^ ((j : ℤ) - 149) = (2 ^ (j - min a.ex b.ex) : ℕ) * 2 ^ (((min a.ex b.ex : ℕ) : ℤ) - 149) := by
    intro j hj
    rw [Nat.cast_pow, Nat.cast_two, ← zpow_natCast, ← zpow_add₀ two_ne_zero]
    congr 1
    omega
  rw [signedValue_eq, signedValue_eq, hscale a.ex (min_le_left _ _), hscale b.ex (min_le_right _ _), F32.alignedSum]
  push_cast
  ring

theorem isRounding_add {a b : F32} (ha : a.isFinite = true) (hb : b.isFinite = true)
    (h : signedValue a + signedValue b ≠ 0) :
    IsRounding |signedValue a + signedValue b| (decide (signedValue a + signedValue b < 0)) (F32.add a b) := by
  have hpos : (0 : ℚ) < 2 ^ (((min a.ex b.ex : ℕ) : ℤ) - 149) := by positivity
  rw [signedValue_add] at h ⊢
  have hne : F32.alignedSum a b ≠ 0 := fun hz => h (by rw [hz]; simp)
  have hneg : (F32.alignedSum a b * 2 ^ (((min a.ex b.ex : ℕ) : ℤ) - 149) < (0 : ℚ)) ↔ F32.alignedSum a b < 0 := by
    rw [← Int.cast_lt_zero (R := ℚ), ← not_le, ← not_le, mul_nonneg_iff_of_pos_right hpos]
  rw [F32.add_of_finite ha hb, if_neg hne, abs_mul, abs_of_pos hpos, decide_eq_decide.mpr hneg, ← Int.cast_abs,
    Int.abs_eq_natAbs, Int.cast_natCast]
  exact isRounding_round _ _ (F32.standsFor_exact _) (by simp)

theorem add_eq_zero {a b : F32} (ha : a.isFinite = true) (hb : b.isFinite = true)
    (h : signedValue a + signedValue b = 0) :
    F32.add a b = if a.sign = true ∧ b.sign = true then ⟨0x80000000⟩ else ⟨0⟩ := by
  rw [signedValue_add, mul_eq_zero, Int.cast_eq_zero] at h
  rw [F32.add_of_finite ha hb, if_pos (h.resolve_right (by positivity))]
  cases a.sign <;> cases b.sign <;> rfl

theorem signedValue_sub (a : F32) {b : F32} (hb : b.isFinite = true) :
    signedValue a - signedValue b = signedValue a + signedValue (F32.neg b) := by
  rw [signedValue_neg (F32.finite_class b hb).1, sub_eq_add_neg]

theorem isRounding_sub {a b : F32} (ha : a.isFinite = true) (hb : b.isFinite = true)
    (h : signedValue a - signedValue b ≠ 0) :
    IsRounding |signedValue a - signedValue b| (decide (signedValue a - signedValue b < 0)) (F32.sub a b) := by
  rw [signedValue_sub a hb] at h ⊢
  exact isRounding_add ha (F32.neg_isFinite hb) h

theorem sub_eq_zero_datum {a b : F32} (ha : a.isFinite = true) (hb : b.isFinite = true)
    (h : signedValue a - signedValue b = 0) :
    F32.sub a b = if a.sign = true ∧ b.sign = false then ⟨0x80000000⟩ else ⟨0⟩ := by
  rw [signedValue_sub a hb] at h
  rw [F32.sub, add_eq_zero ha (F32.neg_isFinite hb) h, (F32.neg_parts (F32.finite_class b hb).1).2]
  simp

/-! ### Product and quotient -/

theorem isRounding_mul {a b : F32} (ha : a.isFinite = true) (hb : b.isFinite = true) :
    IsRounding |signedValue a * signedValue b| (xor a.sign b.sign) (F32.mul a b) := by
  have hvalue : |signedValue a * signedValue b| = (a.mant * b.mant : ℕ) * 2 ^ ((a.ex : ℤ) + b.ex - 298) := by
    rw [abs_mul, signedValue_abs, signedValue_abs, magnitudeValue_eq, magnitudeValue_eq,
      show (a.ex : ℤ) + b.ex - 298 = (a.ex - 149) + (b.ex - 149) by ring, zpow_add₀ two_ne_zero]
    push_cast
    ring
  rw [F32.mul_of_finite ha hb, hvalue]
  exact isRounding_round _ _ (F32.standsFor_exact _) (by simp)

theorem isRounding_div {a b : F32} (ha : a.isFinite = true) (hb : b.isFinite = true) (h : signedValue b ≠ 0) :
    IsRounding |signedValue a / signedValue b| (xor a.sign b.sign) (F32.div a b) := by
  have hz : b.isZero = false := by rwa [Ne, signedValue_eq_zero_iff, Bool.not_eq_true] at h
  have hb0 : b.mant ≠ 0 := by rwa [Ne, signedValue_eq_zero_iff, F32.isZero_iff_mant] at h
  have hvalue : |signedValue a / signedValue b| =
      ((a.mant * 2 ^ 50 : ℕ) : ℚ) / b.mant * 2 ^ ((a.ex : ℤ) - b.ex - 50) := by
    rw [abs_div, signedValue_abs, signedValue_abs, magnitudeValue_eq, magnitudeValue_eq,
      show (a.ex : ℤ) - b.ex - 50 = (a.ex - 149) - (b.ex - 149) - 50 by ring, zpow_sub₀ two_ne_zero _ 50,
      zpow_sub₀ two_ne_zero (_ - 149)]
    push_cast
    field_simp
  rw [F32.div_of_finite ha hb hz, hvalue]
  refine isRounding_round _ _ (F32.standsFor_div _ (Nat.pos_of_ne_zero hb0)) fun hs => ?_
  have ha0 : a.mant ≠ 0 := fun h0 => by simp [h0] at hs
  have := b.mant_lt
  rw [Nat.le_div_iff_mul_le (Nat.pos_of_ne_zero hb0)]
  omega

theorem div_zero_datum {a b : F32} (ha : a.isFinite = true) (hb : b.isFinite = true) (h : signedValue b = 0) :
    F32.div a b = if signedValue a = 0 then F32.nan else F32.inf (xor a.sign b.sign) := by
  rw [F32.div_by_zero ha hb ((signedValue_eq_zero_iff b).mp h)]
  simp only [signedValue_eq_zero_iff]

theorem isRounding_ofNat (n : ℕ) : IsRounding n false (F32.ofNat n) := by
  have h := isRounding_round false 0 (F32.standsFor_exact n) (by simp)
  rwa [zpow_zero, mul_one] at h

/-! ### The square root

The root is irrational as a rule, and the sticky form stands for every rational in an open interval around it; so a
bound that holds for each of them holds, squared, for the exact operand. -/

/-- The midpoint between a binary32 result and another datum is not on the result's side of the exact value. -/
theorem IsRounding.midpoint {v : ℚ} {neg : Bool} {r : F32} (h : IsRounding v neg r) (hv : v < 2 ^ 128 - 2 ^ 103)
    {y : F32} (hy : y.isFinite = true) :
    (magnitudeValue r < magnitudeValue y → v ≤ (magnitudeValue r + magnitudeValue y) / 2) ∧
      (magnitudeValue y < magnitudeValue r → (magnitudeValue r + magnitudeValue y) / 2 ≤ v) := by
  obtain ⟨_, hround⟩ := h
  rw [if_pos hv] at hround
  have hnear : magnitudeValue y ≠ magnitudeValue r → |magnitudeValue r - v| ≤ |magnitudeValue y - v| := fun hne =>
    (hround.2 y hy hne).elim le_of_lt fun heq => heq.1.le
  constructor
  · intro hlt
    by_contra hv'
    have habs := hnear hlt.ne'
    rw [abs_of_nonpos (by linarith)] at habs
    rcases abs_cases (magnitudeValue y - v) with ⟨heq, _⟩ | ⟨heq, _⟩ <;> linarith
  · intro hlt
    by_contra hv'
    have habs := hnear hlt.ne
    rw [abs_of_nonneg (a := magnitudeValue r - v) (by linarith)] at habs
    rcases abs_cases (magnitudeValue y - v) with ⟨heq, _⟩ | ⟨heq, _⟩ <;> linarith

/-- A rational that is above everything an integer root stands for is, squared, not below the radicand. -/
theorem le_sq_of_forall_standsFor {n r : ℕ} (hr : n < (r + 1) * (r + 1)) {c : ℚ}
    (h : ∀ w, F32.StandsFor (decide (r * r ≠ n)) r w → w ≤ c) : (n : ℚ) ≤ c ^ 2 := by
  by_cases hexact : r * r = n
  · have hc : (r : ℚ) ≤ c := h r (by simp [F32.StandsFor, hexact])
    calc (n : ℚ) = (r : ℚ) ^ 2 := by rw [← hexact]; push_cast; ring
      _ ≤ c ^ 2 := by gcongr
  · rw [decide_eq_true hexact] at h
    have hc : (r : ℚ) + 1 ≤ c := by
      by_contra hlt
      obtain ⟨w, hlo, hhi⟩ := exists_between (max_lt (lt_add_one (r : ℚ)) (not_le.mp hlt))
      exact absurd (h w ⟨(max_lt_iff.mp hlo).1, hhi⟩) (not_le.mpr (max_lt_iff.mp hlo).2)
    calc (n : ℚ) ≤ ((r : ℚ) + 1) ^ 2 := by rw [pow_two]; exact_mod_cast hr.le
      _ ≤ c ^ 2 := by gcongr

/-- A rational that is below everything an integer root stands for is, squared, not above the radicand. -/
theorem sq_le_of_forall_standsFor {n r : ℕ} (hr : r * r ≤ n) {c : ℚ} (hc0 : 0 ≤ c)
    (h : ∀ w, F32.StandsFor (decide (r * r ≠ n)) r w → c ≤ w) : c ^ 2 ≤ (n : ℚ) := by
  have hc : c ≤ r := by
    by_cases hexact : r * r = n
    · exact h r (by simp [F32.StandsFor, hexact])
    · rw [decide_eq_true hexact] at h
      by_contra hlt
      obtain ⟨w, hlo, hhi⟩ := exists_between (lt_min (lt_add_one (r : ℚ)) (not_le.mp hlt))
      exact absurd (h w ⟨hlo, (lt_min_iff.mp hhi).1⟩) (not_le.mpr (lt_min_iff.mp hhi).2)
  calc c ^ 2 ≤ (r : ℚ) ^ 2 := by gcongr
    _ ≤ (n : ℚ) := by rw [pow_two]; exact_mod_cast hr

/-- The significand and the even exponent that `sqrt` works with have the value of the operand, and 53 to 77 bits. -/
theorem evenSplit_spec {x : F32} (hx : x.isZero = false) :
    (F32.evenSplit x).2 % 2 = 0 ∧ 2 ^ 52 ≤ (F32.evenSplit x).1 ∧ (F32.evenSplit x).1 < 2 ^ 77 ∧
      magnitudeValue x = (F32.evenSplit x).1 * 2 ^ (F32.evenSplit x).2 := by
  have hne : x.mant ≠ 0 := fun h => by rw [(F32.isZero_iff_mant x).mpr h] at hx; cases hx
  have hpos : 1 ≤ x.mant := Nat.one_le_iff_ne_zero.mpr hne
  have hlt := x.mant_lt
  have hvalue : ∀ sh : ℕ, magnitudeValue x = (x.mant <<< sh : ℕ) * 2 ^ ((x.ex : ℤ) - 149 - sh) := by
    intro sh
    rw [magnitudeValue_eq, Nat.shiftLeft_eq, zpow_sub₀ two_ne_zero _ (sh : ℤ), zpow_natCast]
    push_cast
    field_simp
  unfold F32.evenSplit
  dsimp only
  split
  · next h => exact ⟨by omega, by rw [Nat.shiftLeft_eq]; omega, by rw [Nat.shiftLeft_eq]; omega, hvalue 52⟩
  · next h => exact ⟨by omega, by rw [Nat.shiftLeft_eq]; omega, by rw [Nat.shiftLeft_eq]; omega, hvalue 53⟩

theorem sqrt_of_pos {a : F32} (ha : a.isFinite = true) (hs : a.sign = false) (hz : a.isZero = false) :
    F32.sqrt a =
      F32.round false (F32.isqrtFrom (F32.evenSplit a).1 40 0) ((F32.evenSplit a).2 / 2)
        (decide (F32.isqrtFrom (F32.evenSplit a).1 40 0 * F32.isqrtFrom (F32.evenSplit a).1 40 0 ≠
          (F32.evenSplit a).1)) := by
  simp [F32.sqrt, F32.finite_class a ha, hs, hz]

theorem magnitudeValue_lt {a : F32} (ha : a.isFinite = true) : magnitudeValue a < 2 ^ 128 := by
  have hinf : patternValue 0x7F800000 = 2 ^ 128 := by norm_num [patternValue]
  rw [magnitudeValue_pattern, ← hinf]
  exact patternValue_strictMono (of_decide_eq_true ha)

/-- `r` is the square root rounded: finite, not negative, and no finite datum is nearer to the exact root of `v`, said
by squares. -/
def IsRoot (v : ℚ) (r : F32) : Prop :=
  r.isFinite = true ∧ r.sign = false ∧ ∀ y : F32, y.isFinite = true →
    (magnitudeValue r < magnitudeValue y → 4 * v ≤ (magnitudeValue r + magnitudeValue y) ^ 2) ∧
    (magnitudeValue y < magnitudeValue r → (magnitudeValue r + magnitudeValue y) ^ 2 ≤ 4 * v)

/-- A datum that is the rounding of everything an integer root stands for, in units of `p`, is the rounded root of the
radicand in units of `p ^ 2`. -/
theorem isRoot_of_forall_standsFor {n m : ℕ} {p : ℚ} {r : F32} (hp : 0 < p) (hm : 1 ≤ m) (hlo : m * m ≤ n)
    (hhi : n < (m + 1) * (m + 1)) (hrange : n * p ^ 2 < 2 ^ 128)
    (h : ∀ w, F32.StandsFor (decide (m * m ≠ n)) m w → IsRounding (w * p) false r) : IsRoot (n * p ^ 2) r := by
  have hlo' : (m : ℚ) * m ≤ n := by exact_mod_cast hlo
  have hm' : (1 : ℚ) ≤ m := by exact_mod_cast hm
  have hsmall : ∀ w, F32.StandsFor (decide (m * m ≠ n)) m w → w * p < 2 ^ 128 - 2 ^ 103 := by
    intro w hw
    have hle : w * p ≤ 2 * (m * p) := by have := hw.lt; nlinarith
    have hsq : (m * p) ^ 2 < (2 ^ 64) ^ 2 := by
      calc (m * p) ^ 2 = m * m * p ^ 2 := by ring
        _ ≤ n * p ^ 2 := by gcongr
        _ < (2 ^ 64) ^ 2 := lt_of_lt_of_le hrange (by norm_num)
    have := lt_of_pow_lt_pow_left₀ 2 (by norm_num) hsq
    linarith
  obtain ⟨w, hw⟩ : ∃ w : ℚ, F32.StandsFor (decide (m * m ≠ n)) m w := by
    by_cases hexact : m * m = n
    · exact ⟨m, by simp [F32.StandsFor, hexact]⟩
    · exact ⟨m + 1 / 2, by rw [decide_eq_true hexact]; exact F32.standsFor_sticky (by linarith) (by linarith)⟩
  obtain ⟨hsign, hfinite⟩ := h w hw
  rw [if_pos (hsmall w hw)] at hfinite
  refine ⟨hfinite.1, hsign, fun y hy => ⟨fun hlt => ?_, fun hlt => ?_⟩⟩
  · have hsq := le_sq_of_forall_standsFor (c := (magnitudeValue r + magnitudeValue y) / 2 / p) hhi fun w hw =>
      (le_div_iff₀ hp).mpr (((h w hw).midpoint (hsmall w hw) hy).1 hlt)
    rw [div_pow, le_div_iff₀ (by positivity)] at hsq
    linarith
  · have hnonneg : 0 ≤ (magnitudeValue r + magnitudeValue y) / 2 / p := by
      have := magnitudeValue_nonneg r
      have := magnitudeValue_nonneg y
      positivity
    have hsq := sq_le_of_forall_standsFor hlo hnonneg fun w hw =>
      (div_le_iff₀ hp).mpr (((h w hw).midpoint (hsmall w hw) hy).2 hlt)
    rw [div_pow, div_le_iff₀ (by positivity)] at hsq
    linarith

theorem isRoot_sqrt {a : F32} (ha : a.isFinite = true) (hs : a.sign = false) : IsRoot (signedValue a) (F32.sqrt a) := by
  have hvalue : signedValue a = magnitudeValue a := by simp [signedValue, hs]
  rw [hvalue]
  cases hz : a.isZero with
  | true =>
    have hsqrt : F32.sqrt a = a := by simp [F32.sqrt, F32.finite_class a ha, hz]
    rw [hsqrt, (magnitudeValue_eq_zero_iff a).mpr hz]
    refine ⟨ha, hs, fun y _ => ⟨fun _ => by rw [mul_zero]; positivity, fun hlt => ?_⟩⟩
    exact absurd (magnitudeValue_nonneg y) (not_le.mpr (by rwa [(magnitudeValue_eq_zero_iff a).mpr hz] at hlt))
  | false =>
    obtain ⟨heven, hge, hlt, hsplit⟩ := evenSplit_spec hz
    obtain ⟨hlo, hhi⟩ := F32.isqrtFrom_spec (F32.evenSplit a).1 40 0 (by omega) (by omega)
    rw [sqrt_of_pos ha hs hz]
    have hbits : 2 ^ 25 ≤ F32.isqrtFrom (F32.evenSplit a).1 40 0 := by
      by_contra hm
      have hm' : F32.isqrtFrom (F32.evenSplit a).1 40 0 + 1 ≤ 2 ^ 25 := by omega
      have := Nat.mul_le_mul hm' hm'
      omega
    have hpow : magnitudeValue a = (F32.evenSplit a).1 * ((2 : ℚ) ^ ((F32.evenSplit a).2 / 2)) ^ 2 := by
      rw [hsplit, ← zpow_natCast, ← zpow_mul]
      congr 2
      push_cast
      omega
    have hrange := magnitudeValue_lt ha
    rw [hpow] at hrange ⊢
    exact isRoot_of_forall_standsFor (by positivity) (by omega) hlo hhi hrange fun w hw =>
      isRounding_round false _ hw fun _ => hbits

/-! ### Infinities and NaNs -/

theorem add_inf_finite {a b : F32} (ha : a.isInf = true) (hb : b.isFinite = true) :
    F32.add a b = a ∧ F32.add b a = a := by
  simp [F32.add, F32.inf_class a ha, F32.finite_class b hb, ha, F32.inf_sign_eq ha]

theorem mul_inf_finite {a b : F32} (ha : a.isInf = true) (hb : b.isFinite = true) :
    F32.mul a b = if b.isZero = true then F32.nan else F32.inf (xor a.sign b.sign) := by
  simp [F32.mul, F32.inf_class a ha, F32.finite_class b hb, ha]

theorem div_inf_finite {a b : F32} (ha : a.isInf = true) (hb : b.isFinite = true) :
    F32.div a b = F32.inf (xor a.sign b.sign) ∧ F32.div b a = F32.zero (xor b.sign a.sign) := by
  simp [F32.div, F32.inf_class a ha, F32.finite_class b hb, ha]

section
variable {a b : F32} (ha : a.isInf = true) (hb : b.isInf = true)
include ha hb

theorem add_inf_inf : F32.add a b = if a.sign = b.sign then a else F32.nan := by
  have hadd : F32.add a b = if a.sign = b.sign then F32.inf a.sign else F32.nan := by
    by_cases hs : a.sign = b.sign <;> simp [F32.add, F32.inf_class a ha, F32.inf_class b hb, ha, hb, hs]
  rw [hadd, F32.inf_sign_eq ha]

theorem sub_inf_inf : F32.sub a b = if a.sign = b.sign then F32.nan else a := by
  rw [F32.sub, add_inf_inf ha (F32.neg_isInf hb), (F32.neg_parts (F32.inf_class b hb).1).2]
  cases a.sign <;> cases b.sign <;> rfl

theorem mul_inf_inf : F32.mul a b = F32.inf (xor a.sign b.sign) := by
  simp [F32.mul, F32.inf_class a ha, F32.inf_class b hb, ha]

theorem div_inf_inf : F32.div a b = F32.nan := by
  simp [F32.div, F32.inf_class a ha, F32.inf_class b hb, ha, hb]

end

section
variable {a b : F32} (h : a.isNaN = true ∨ b.isNaN = true)
include h

theorem add_nan : F32.add a b = F32.nan := if_pos (by simpa using h)

theorem sub_nan : F32.sub a b = F32.nan := add_nan (h.imp_right fun hb => by rw [F32.neg_of_isNaN hb]; rfl)

theorem mul_nan : F32.mul a b = F32.nan := if_pos (by simpa using h)

theorem div_nan : F32.div a b = F32.nan := if_pos (by simpa using h)

/-- A comparison with a NaN operand is false (rule R15). -/
theorem compare_nan : F32.lt a b = false ∧ F32.le a b = false ∧ F32.eq a b = false := by
  rcases h with h | h <;> simp [F32.lt, F32.le, F32.eq, h]

end

theorem sqrt_invalid {a : F32} (h : a.isNaN = true ∨ (a.sign = true ∧ a.isZero = false)) : F32.sqrt a = F32.nan := by
  rcases h with h | ⟨hs, hz⟩
  · simp [F32.sqrt, h]
  · simp [F32.sqrt, hs, hz]

/-- Settles O56: each operation's own lemma, clause by clause. -/
theorem arithmeticIsCorrectlyRounded : Obligations.ArithmeticIsCorrectlyRounded := by
  refine ⟨fun a b ha hb => ?_, fun a ha hs => isRoot_sqrt ha hs, isRounding_ofNat, fun a b ha hb => ?_,
    fun a b ha hb => ⟨add_inf_inf ha hb, sub_inf_inf ha hb, mul_inf_inf ha hb, div_inf_inf ha hb⟩,
    fun a b h => ⟨add_nan h, sub_nan h, mul_nan h, div_nan h, compare_nan h⟩, fun a h => sqrt_invalid h⟩
  · exact ⟨isRounding_add ha hb, add_eq_zero ha hb, isRounding_sub ha hb, sub_eq_zero_datum ha hb, isRounding_mul ha hb,
      isRounding_div ha hb, div_zero_datum ha hb, lt_iff_signedValue ha hb, le_iff_signedValue ha hb,
      eq_iff_signedValue ha hb⟩
  · obtain ⟨hadd, hadd'⟩ := add_inf_finite ha hb
    exact ⟨hadd, hadd', (add_inf_finite ha (F32.neg_isFinite hb)).1, mul_inf_finite ha hb, div_inf_finite ha hb⟩

/-! ### `u31sat` and the delays (rules R17, R250, R280, R353) -/

/-- The integer part of a datum. -/
theorem trunc_spec (x : F32) : (x.trunc : ℚ) ≤ magnitudeValue x ∧ magnitudeValue x < x.trunc + 1 := by
  rw [magnitudeValue_eq]
  unfold F32.trunc
  split
  · next h =>
    have hvalue : (x.mant : ℚ) * 2 ^ ((x.ex : ℤ) - 149) = (x.mant <<< (x.ex - 149) : ℕ) := by
      rw [Nat.shiftLeft_eq, show (x.ex : ℤ) - 149 = (x.ex - 149 : ℕ) by omega, zpow_natCast]
      push_cast
      rfl
    rw [hvalue]
    exact ⟨le_rfl, lt_add_one _⟩
  · next h =>
    have hvalue : (x.mant : ℚ) * 2 ^ ((x.ex : ℤ) - 149) = (x.mant : ℚ) / (2 ^ (149 - x.ex) : ℕ) := by
      rw [show (x.ex : ℤ) - 149 = -(149 - x.ex : ℕ) by omega, zpow_neg, zpow_natCast]
      push_cast
      rfl
    have hquot := F32.standsFor_div x.mant (Nat.two_pow_pos (149 - x.ex))
    rw [hvalue, Nat.shiftRight_eq_div_pow]
    exact ⟨hquot.le, hquot.lt⟩

/-- A datum from zero up to, but not including, 2^31 has a magnitude below 2^31. -/
theorem magnitudeValue_lt_of_ge {x : F32} (h0 : F32.ge x ⟨0⟩ = true) (h31 : F32.ge x F32.twoPow31 = false) :
    magnitudeValue x < 2 ^ 31 := by
  obtain ⟨_, hnan, hkey0⟩ := (F32.ge_iff x ⟨0⟩).mp h0
  have hkey : x.key < 0x4F000000 := by
    by_contra hge
    have : F32.ge x F32.twoPow31 = true := (F32.ge_iff x _).mpr ⟨by decide, hnan, not_lt.mp hge⟩
    rw [h31] at this
    cases this
  have hmag : x.magnitude < 0x4F000000 := by
    have hkey0 : 0 ≤ x.key := hkey0
    unfold F32.key at hkey hkey0
    split at hkey
    · next hs => rw [if_pos hs] at hkey0; omega
    · omega
  have h31' : patternValue 0x4F000000 = 2 ^ 31 := by norm_num [patternValue]
  rw [magnitudeValue_pattern, ← h31']
  exact patternValue_strictMono hmag

/-- Between zero and 2^31 `u31sat` is the integer part. -/
theorem u31sat_toNat {x : F32} (h0 : F32.ge x ⟨0⟩ = true) (h31 : F32.ge x F32.twoPow31 = false) :
    (F32.u31sat x).toNat = x.trunc ∧ x.trunc < 2 ^ 31 := by
  have hlt : x.trunc < 2 ^ 31 := by
    exact_mod_cast lt_of_le_of_lt (trunc_spec x).1 (magnitudeValue_lt_of_ge h0 h31)
  rcases F32.u31sat_cases x with ⟨h, _⟩ | ⟨_, h, _⟩ | ⟨_, _, hsat⟩
  · rw [h0] at h; cases h
  · rw [h31] at h; cases h
  · rw [hsat, BitVec.toNat_ofNat]
    exact ⟨Nat.mod_eq_of_lt (by omega), hlt⟩

theorem u31sat_of_not_ge {x : F32} (h : F32.ge x ⟨0⟩ = false) : F32.u31sat x = 0 := by
  rcases F32.u31sat_cases x with ⟨_, hsat⟩ | ⟨h0, _⟩ | ⟨h0, _⟩
  · exact hsat
  · rw [h] at h0; cases h0
  · rw [h] at h0; cases h0

theorem u31sat_of_ge_twoPow31 {x : F32} (h : F32.ge x F32.twoPow31 = true) : F32.u31sat x = 0x7FFFFFFF := by
  have h0 : F32.ge x ⟨0⟩ = true := by
    obtain ⟨_, hnan, hkey⟩ := (F32.ge_iff x _).mp h
    exact (F32.ge_iff x _).mpr ⟨by decide, hnan, le_trans (by decide) hkey⟩
  rcases F32.u31sat_cases x with ⟨h', _⟩ | ⟨_, _, hsat⟩ | ⟨_, h', _⟩
  · rw [h0] at h'; cases h'
  · exact hsat
  · rw [h] at h'; cases h'

theorem u31sat_le (x : F32) : (F32.u31sat x).toNat ≤ 0x7FFFFFFF := by
  rcases F32.u31sat_cases x with ⟨_, h⟩ | ⟨_, _, h⟩ | ⟨h0, h31, _⟩
  · rw [h]; decide
  · rw [h]; decide
  · obtain ⟨h, hlt⟩ := u31sat_toNat h0 h31
    omega

/-- `ramp_delay` is the raw delay or, if that is greater, `RAMP_MIN_STEP_US` (rule R280). -/
theorem rampDelay_toNat (c : Cfg) (f : F32) :
    (rampDelay c f).toNat = max (F32.u31sat (periodLaw f)).toNat c.rampMinStepUs.toNat := by
  unfold rampDelay
  dsimp only
  split
  · next h => exact (max_eq_right (BitVec.lt_def.mp h).le).symm
  · next h => exact (max_eq_left (not_lt.mp fun hlt => h (BitVec.lt_def.mpr hlt))).symm

/-- `comm_delay` within legal bounds fits the slot (rules R44, R353). -/
theorem commDelay_le {c : Cfg} (hmin : c.commDelayMinUs ≤ 0x7FFFFFFF) (hmax : c.commDelayMaxUs ≤ 0x7FFFFFFF) (x : F32) :
    (commDelay c x).toNat ≤ 0x7FFFFFFF := by
  have hraw := u31sat_le (F32.mul x (F32.ofWord c.leadFactor))
  unfold commDelay
  rw [clampu_toNat]
  split
  · exact BitVec.le_def.mp hmin
  · split
    · exact BitVec.le_def.mp hmax
    · exact hraw

/-- Settles O60. -/
theorem delaysFitTheSlot : Obligations.DelaysFitTheSlot := by
  refine fun c x => ⟨u31sat_of_not_ge, u31sat_of_ge_twoPow31, fun h0 h31 => ?_, rampDelay_toNat c x,
    clampu_toNat _ _ _, fun hc => ?_⟩
  · rw [(u31sat_toNat h0 h31).1]
    exact trunc_spec x
  · have hraw := u31sat_le (periodLaw x)
    have hmin := BitVec.le_def.mp hc.minStep.2
    have halign := BitVec.le_def.mp hc.alignTime
    rw [rampDelay_toNat]
    exact ⟨u31sat_le x, le_max_right _ _, max_le hraw hmin, commDelay_le hc.commDelayMin hc.commDelayMax x, halign⟩

end Sys2Proof.Machine
end

section
/-! Host accesses to the register window (rules R101 to R109, R121, R122, R151): an access error changes nothing, a write
to `CMD` runs its command, any other access is idempotent, and a snapshot or a read leaves the rest of the window. -/

namespace Sys2Proof.Machine

/-! ### The bus response -/

theorem respond_respond (data data' : Word) (error error' : Bool) (s : State) :
    respond data error (respond data' error' s) = respond data error s := rfl

/-- Answering again what the bus last answered changes nothing. -/
theorem respond_eq_self {data : Word} {error : Bool} {s : State} (h : s.env.resp = ⟨data, error⟩) :
    respond data error s = s := by
  unfold respond
  rw [← h]

/-- No register shows the bus response. -/
theorem memRead_respond (off : ℕ) (data : Word) (error : Bool) (s : State) :
    memRead off (respond data error s) = memRead off s := by
  cases hr : regAt off with
  | none => rw [memRead_of_regAt_none hr, memRead_of_regAt_none hr]
  | some r =>
    rw [memRead_of_regAt hr, memRead_of_regAt hr]
    cases r <;> rfl

/-! ### Access errors (rules R102, R103) -/

theorem accessError_iff (off : Word) (n : AccessWidth) :
    accessError off n = true ↔ n ≠ .four ∨ off.toNat % 4 ≠ 0 ∨ 0x400 ≤ off.toNat := by
  simp [accessError, or_assoc]

theorem exec_hostRead_of_accessError {off : Word} {n : AccessWidth} (h : accessError off n = true) (s : State) :
    exec (.hostRead off n) s = .next (respond 0 true s) := if_pos h

theorem exec_hostWrite_of_accessError {off : Word} {n : AccessWidth} (h : accessError off n = true) (v : Word)
    (s : State) : exec (.hostWrite off v n) s = .next (respond 0 true s) := if_pos h

theorem exec_hostRead_of_legal {off : Word} {n : AccessWidth} (h : accessError off n = false) (s : State) :
    exec (.hostRead off n) s = .next (respond (memRead off.toNat s) false s) := if_neg (by simp [h])

theorem exec_hostWrite_of_legal {off : Word} {n : AccessWidth} (h : accessError off n = false) (hcmd : off ≠ 0x004)
    (v : Word) (s : State) :
    exec (.hostWrite off v n) s = .next (memWrite off.toNat v (respond 0 false s)) := by
  change execHostWrite off v n s = _
  rcases execHostWrite_cases off v n s with ⟨herror, _⟩ | ⟨_, hoff, _⟩ | ⟨_, _, hwrite⟩
  · rw [h] at herror; cases herror
  · exact absurd hoff hcmd
  · exact hwrite

/-- Settles O35. -/
theorem accessErrorsChangeNothing : Obligations.AccessErrorsChangeNothing := by
  intro off v n s h
  have herror := (accessError_iff off n).mpr h
  exact ⟨exec_hostRead_of_accessError herror s, exec_hostWrite_of_accessError herror v s⟩

/-! ### A write to `CMD` (rule R151) -/

theorem isCommand_of_noFields {w : Word} {i j : Instr} (hj : j.isCommand = true) (h : noFields w j = .ok i) :
    i.isCommand = true := by
  unfold noFields at h
  split at h <;> cases h
  exact hj

/-- A command word decodes to commands only (rule R150). -/
theorem isCommand_of_decodeCommand {w : Word} {i : Instr} (h : decodeCommand w = .ok i) : i.isCommand = true := by
  unfold decodeCommand at h
  split at h
  · cases h
  split at h
  -- `RAMP_START`, `INV_COMMUTATE` and `INV_SET_PHASE`, which have fields of their own; an unlisted opcode; all others.
  case h_9 => split at h <;> cases h; rfl
  case h_13 => (repeat' split at h) <;> cases h; rfl
  case h_15 => (repeat' split at h) <;> cases h; rfl
  case h_23 => cases h
  all_goals exact isCommand_of_noFields rfl h

/-- Settles O7: a decoded word is a command, which `runCommandWord` runs as `exec` does. -/
theorem commandWriteRunsCommand : Obligations.CommandWriteRunsCommand := by
  intro w i s hw
  have hwrite : exec (.hostWrite 0x004 w .four) s = runCommandWord w (respond 0 false s) := rfl
  rw [hwrite]
  rcases runCommandWord_cases w (respond 0 false s) with ⟨_, he, _⟩ | ⟨j, hj, _, hrun⟩ | ⟨j, hj, hcommand, _⟩
  · rw [hw] at he; cases he
  · obtain rfl : i = j := by rw [hw] at hj; cases hj; rfl
    exact hrun
  · rw [isCommand_of_decodeCommand hj] at hcommand; cases hcommand

/-! ### A write to any other register (rules R105 to R107) -/

/-- The operand registers (rule R33). -/
def operandRegs : List Reg := [.arg0, .arg1, .arg2, .arg3]

/-- A write outside the operand registers reaches the configuration only; a read-only register keeps that too. -/
theorem writeReg_of_not_operand {r : Reg} (h : r ∉ operandRegs) (v : Word) (s : State) :
    writeReg r v s = { s with cfg := writeCfg r v s.cfg } := by
  cases r with
  | arg0 | arg1 | arg2 | arg3 => simp [operandRegs] at h
  | _ => rfl

/-- A write that is ignored unless the value is legal is idempotent: the value alone decides (rule R44). -/
theorem warl_warl {legal : Bool} (set : Cfg → Cfg) (hset : ∀ c, set (set c) = set c) (c : Cfg) :
    warl legal (set (warl legal (set c) c)) (warl legal (set c) c) = warl legal (set c) c := by
  cases legal
  · rfl
  · exact hset c

theorem writeCfg_writeCfg (r : Reg) (v : Word) (c : Cfg) : writeCfg r v (writeCfg r v c) = writeCfg r v c := by
  cases r with
  | rampFreqStartHz => exact warl_warl (fun c => { c with rampFreqStartHz := v }) (fun _ => rfl) c
  | rampFreqEndHz => exact warl_warl (fun c => { c with rampFreqEndHz := v }) (fun _ => rfl) c
  | rampProfile => exact warl_warl (fun c => { c with rampProfile := v.setWidth 2 }) (fun _ => rfl) c
  | rampMinStepUs => exact warl_warl (fun c => { c with rampMinStepUs := v }) (fun _ => rfl) c
  | alignTimeUs => exact warl_warl (fun c => { c with alignTimeUs := v }) (fun _ => rfl) c
  | commDelayMinUs => exact warl_warl (fun c => { c with commDelayMinUs := v }) (fun _ => rfl) c
  | commDelayMaxUs => exact warl_warl (fun c => { c with commDelayMaxUs := v }) (fun _ => rfl) c
  | clStallTimeoutUs => exact warl_warl (fun c => { c with clStallTimeoutUs := v }) (fun _ => rfl) c
  | polePairs => exact warl_warl (fun c => { c with polePairs := lowHalf v }) (fun _ => rfl) c
  | speedSlopeRpm => exact warl_warl (fun c => { c with speedSlopeRpm := v }) (fun _ => rfl) c
  | pidTsS => exact warl_warl (fun c => { c with pidTsS := v }) (fun _ => rfl) c
  | pidOutMin => exact warl_warl (fun c => { c with pidOutMin := v }) (fun _ => rfl) c
  | alignStep =>
    by_cases h : v.toNat < 6
    · have hstore (c : Cfg) : writeCfg .alignStep v c = { c with alignStep := ⟨v.toNat, h⟩ } := dif_pos h
      rw [hstore, hstore]
    · have hkeep (c : Cfg) : writeCfg .alignStep v c = c := dif_neg h
      rw [hkeep, hkeep]
  | _ => rfl

theorem writeReg_writeReg (r : Reg) (v : Word) (s : State) : writeReg r v (writeReg r v s) = writeReg r v s := by
  by_cases h : r ∈ operandRegs
  · simp only [operandRegs, List.mem_cons, List.not_mem_nil, or_false] at h
    rcases h with rfl | rfl | rfl | rfl <;> rfl
  · simp only [writeReg_of_not_operand h, writeCfg_writeCfg]

theorem memWrite_memWrite (off : ℕ) (v : Word) (s : State) :
    memWrite off v (memWrite off v s) = memWrite off v s := by
  unfold memWrite
  split
  · exact writeReg_writeReg _ v s
  · rfl

theorem memWrite_env (off : ℕ) (v : Word) (s : State) : (memWrite off v s).env = s.env := by
  unfold memWrite
  split
  · rw [writeReg_frame]
  · rfl

/-! ### Idempotence (rule R109) -/

theorem exec_hostRead_idempotent {off : Word} {n : AccessWidth} {s t : State}
    (h : exec (.hostRead off n) s = .next t) : exec (.hostRead off n) t = .next t := by
  cases herror : accessError off n with
  | true =>
    rw [exec_hostRead_of_accessError herror] at h ⊢
    cases h
    rw [respond_respond]
  | false =>
    rw [exec_hostRead_of_legal herror] at h ⊢
    cases h
    rw [memRead_respond, respond_respond]

theorem exec_hostWrite_idempotent {off v : Word} {n : AccessWidth} {s t : State} (hcmd : off ≠ 0x004)
    (h : exec (.hostWrite off v n) s = .next t) : exec (.hostWrite off v n) t = .next t := by
  cases herror : accessError off n with
  | true =>
    rw [exec_hostWrite_of_accessError herror] at h ⊢
    cases h
    rw [respond_respond]
  | false =>
    rw [exec_hostWrite_of_legal herror hcmd] at h ⊢
    cases h
    have hresp : (memWrite off.toNat v (respond 0 false s)).env.resp = ⟨0, false⟩ := by rw [memWrite_env]; rfl
    rw [respond_eq_self hresp, memWrite_memWrite]

/-- Settles O37: `INV_COMMUTATE` written to `CMD` twice commutates twice, and `COMM_COUNT` tells. -/
theorem registerAccessesAreIdempotent : Obligations.RegisterAccessesAreIdempotent := by
  refine ⟨fun _ _ _ _ => exec_hostRead_idempotent, fun _ _ _ _ _ => exec_hostWrite_idempotent,
    0x30, State.reset, _, _, rfl, rfl, fun h => ?_⟩
  have hcount : (2 : Word) = 1 := congrArg (fun s : State => s.comm.count) h
  exact absurd hcount (by decide)

/-! ### What a snapshot leaves of the window -/

/-- The registers that show the interface elements (rules R32, R33). -/
def interfaceRegs : List Reg := .cmdStatus :: operandRegs

theorem readReg_of_not_interface {r : Reg} (h : r ∉ interfaceRegs) (x : Iface) (s : State) :
    readReg r { s with iface := x } = readReg r s := by
  cases r with
  | cmdStatus | arg0 | arg1 | arg2 | arg3 => simp [interfaceRegs, operandRegs] at h
  | _ => rfl

/-- Where rule R31 maps the interface registers. -/
theorem offset_of_interface : ∀ e ∈ regMap, e.2 ∈ interfaceRegs → e.1 = 0x008 ∨ (0x010 ≤ e.1 ∧ e.1 < 0x020) := by
  unfold interfaceRegs operandRegs
  decide

theorem memRead_iface_frame {off : ℕ} (hstatus : off ≠ 0x008) (hargs : ¬(0x010 ≤ off ∧ off < 0x020)) (x : Iface)
    (s : State) : memRead off { s with iface := x } = memRead off s := by
  cases hr : regAt off with
  | none => rw [memRead_of_regAt_none hr, memRead_of_regAt_none hr]
  | some r =>
    have hnot : r ∉ interfaceRegs := fun hmem =>
      (offset_of_interface _ (mem_regMap_of_regAt hr) hmem).elim hstatus hargs
    rw [memRead_of_regAt hr, memRead_of_regAt hr, readReg_of_not_interface hnot]

theorem windowByte_iface_frame {a : ℕ} (hstatus : ¬(0x008 ≤ a ∧ a < 0x00C)) (hargs : ¬(0x010 ≤ a ∧ a < 0x020))
    (x : Iface) (s : State) : windowByte { s with iface := x } a = windowByte s a := by
  unfold windowByte
  rw [memRead_iface_frame (by omega) (by omega)]

/-- The bytes of `ARG3` are kept with `ARG3`. -/
theorem windowByte_arg3 {a : ℕ} (hlo : 0x01C ≤ a) (hhi : a < 0x020) {x : Iface} {s : State}
    (harg3 : x.arg3 = s.iface.arg3) : windowByte { s with iface := x } a = windowByte s a := by
  have hoff : a / 4 * 4 = 0x01C := by omega
  have hread : memRead 0x01C { s with iface := x } = memRead 0x01C s := harg3
  unfold windowByte
  rw [hoff, hread]

/-- A snapshot command writes the interface elements only, and `SCHED_IS_ACTIVE` keeps `ARG3` (rule R258). -/
theorem exec_snapshot {i : Instr} {s t : State} (hi : i ∈ [.bemfGetStatus, .schedIsActive, .rampGetState, .telemetry])
    (h : exec i s = .next t) :
    ∃ x : Iface, t = { s with iface := x } ∧ (i = .schedIsActive → x.arg3 = s.iface.arg3) := by
  simp only [List.mem_cons, List.not_mem_nil, or_false] at hi
  rcases hi with rfl | rfl | rfl | rfl <;> cases h
  · exact ⟨_, rfl, fun hne => by cases hne⟩
  · exact ⟨_, rfl, fun _ => rfl⟩
  · exact ⟨_, rfl, fun hne => by cases hne⟩
  · exact ⟨_, rfl, fun hne => by cases hne⟩

theorem windowByte_hostRead {off : Word} {n : AccessWidth} {s t : State} (a : ℕ)
    (h : exec (.hostRead off n) s = .next t) : windowByte t a = windowByte s a := by
  obtain ⟨data, error, rfl⟩ : ∃ data error, t = respond data error s := by
    cases herror : accessError off n with
    | true => rw [exec_hostRead_of_accessError herror] at h; cases h; exact ⟨_, _, rfl⟩
    | false => rw [exec_hostRead_of_legal herror] at h; cases h; exact ⟨_, _, rfl⟩
  unfold windowByte
  rw [memRead_respond]

/-- Settles O15. -/
theorem snapshotsLeaveEveryOtherByte : Obligations.SnapshotsLeaveEveryOtherByte := by
  refine ⟨fun i s t a hi h hstatus hargs => ?_, fun off n s t a h => windowByte_hostRead a h⟩
  obtain ⟨x, rfl, harg3⟩ := exec_snapshot hi h
  by_cases hin : 0x01C ≤ a ∧ a < 0x020
  · obtain ⟨hlo, hhi⟩ := hin
    have hsched : i = .schedIsActive := by
      by_contra hne
      rw [if_neg hne] at hargs
      omega
    exact windowByte_arg3 hlo hhi (harg3 hsched)
  · refine windowByte_iface_frame hstatus (fun hrange => hargs ?_) x s
    split <;> omega

end Sys2Proof.Machine
end

section
/-! The order of events (rules R111, R112, R123): which event a step takes, and why the timer drain before an input ends.
An expiry empties the slot, or arms it later: a ramp delay is at least 1 us, and the one delay that may be 0, that of the
first closed-loop commutation, is armed by a handover and followed by an empty slot. -/

namespace Sys2Proof.Machine

/-! ### Which event a step takes -/

theorem inOrder_iff (t : Word) (s : State) :
    inOrder t s = true ↔ (s.env.started = true → (t - s.env.time).toNat < 2 ^ 31) := by
  unfold inOrder
  rw [Bool.or_eq_true, atOrAfter_iff]
  cases s.env.started <;> simp

theorem expiryDue_iff (t : Word) (s : State) :
    expiryDue t s = true ↔ s.sched.active = true ∧ (t - s.sched.deadline).toNat < 2 ^ 31 := by
  unfold expiryDue
  rw [Bool.and_eq_true, atOrAfter_iff]

theorem expiryFirst_iff (i : Instr) (t : Word) (s : State) :
    expiryFirst i t s = true ↔ i ≠ .reset ∧ s.sched.active = true ∧ (t - s.sched.deadline).toNat < 2 ^ 31 := by
  unfold expiryFirst
  rw [Bool.and_eq_true, decide_eq_true_eq, expiryDue_iff]

theorem screenInput_of_decode {r : InputRecord} {i : Instr} (h : decodeEvent r.code r.payload = .ok i) (s : State) :
    screenInput r s = if inOrder r.t s then .ok i else .error .timeOrder := by
  unfold screenInput
  rw [h]

/-- The screening reads the ports only. -/
theorem screenInput_congr {s u : State} (h : u.env = s.env) (r : InputRecord) : screenInput r u = screenInput r s := by
  unfold screenInput inOrder
  rw [h]

theorem step_of_empty {s : State} (h : s.env.inputs = []) : step s = .next s := by
  unfold step
  rw [h]

theorem step_of_accepted {s : State} {r : InputRecord} {rest : List InputRecord} {i : Instr}
    (hin : s.env.inputs = r :: rest) (hscreen : screenInput r s = .ok i) :
    step s = if expiryFirst i r.t s then exec .timerExpire s else exec i (takeInput r.t rest s) := by
  unfold step
  simp only [hin, hscreen]

theorem step_of_refused {s : State} {r : InputRecord} {rest : List InputRecord} {why : Refusal}
    (hin : s.env.inputs = r :: rest) (hscreen : screenInput r s = .error why) : step s = .refused why := by
  unfold step
  simp only [hin, hscreen]

/-- Settles O6. -/
theorem stepRunsNextEvent : Obligations.StepRunsNextEvent := by
  intro s r rest i hin hdecode
  have hscreen := screenInput_of_decode hdecode s
  refine ⟨fun horder => ?_, fun ⟨hstarted, hlate⟩ => ?_⟩
  · rw [if_pos ((inOrder_iff r.t s).mpr horder)] at hscreen
    rw [step_of_accepted hin hscreen]
    exact if_congr (expiryFirst_iff i r.t s) rfl rfl
  · have hnot : ¬inOrder r.t s = true := fun h => by
      have := (inOrder_iff r.t s).mp h hstarted
      omega
    rw [if_neg hnot] at hscreen
    exact step_of_refused hin hscreen

/-- Settles O9. -/
theorem timeAloneChangesNothing : Obligations.TimeAloneChangesNothing := ⟨fun _ => step_of_empty, fun _ => rfl⟩

/-! ### What an expiry leaves in the slot -/

/-- What the callback of an expiry at time `t` with a tag leaves in the slot: nothing, the next ramp step, or, after a
handover, the first closed-loop commutation (rules R253, R281, R291, R350). -/
inductive SlotAfter (t : Word) (tag : Tag) (c : Sched) : Prop
  | empty (hactive : c.active = false) (htag : c.tag = .none)
  | nextRampStep (d : Word) (hactive : c.active = true) (htag : c.tag = .rampStep) (hdeadline : c.deadline = t + d)
      (hpos : 1 ≤ d.toNat) (hmax : d.toNat ≤ 0x7FFFFFFF)
  | firstCommutation (d : Word) (hhandover : tag = .handover) (hactive : c.active = true) (htag : c.tag = .clComm)
      (hdeadline : c.deadline = t + d) (hmax : d.toNat ≤ 0x7FFFFFFF)

/-- With legal configuration a ramp delay is at least 1 us and fits the slot (rules R44, R280). -/
theorem rampDelay_bounds {c : Cfg} (hc : CfgLegal c) (f : F32) :
    1 ≤ (rampDelay c f).toNat ∧ (rampDelay c f).toNat ≤ 0x7FFFFFFF := by
  have hraw := u31sat_le (periodLaw f)
  obtain ⟨hlo, hhi⟩ := hc.minStep
  rw [rampDelay_toNat]
  exact ⟨le_max_of_le_right (BitVec.le_def.mp hlo), max_le hraw (BitVec.le_def.mp hhi)⟩

/-- A ramp step keeps the configuration and the ports, and finishes with the slot empty or schedules the next one. -/
theorem rampStep_slot {t : Word} {s : State} (hc : CfgLegal s.cfg) (hactive : s.sched.active = false)
    (htag : s.sched.tag = .none) :
    (rampStep t s).cfg = s.cfg ∧ (rampStep t s).env = s.env ∧ SlotAfter t .rampStep (rampStep t s).sched := by
  rcases rampStep_cases t s with ⟨f, d, h⟩ | ⟨_, h⟩ | ⟨_, h⟩ <;> rw [h]
  · obtain ⟨hpos, hmax⟩ := rampDelay_bounds hc f
    exact ⟨by simp, by simp, .nextRampStep (rampDelay s.cfg f) (by simp) (by simp) (by simp) hpos hmax⟩
  · exact ⟨by simp, by simp, .empty (by simp) (by simp)⟩
  · exact ⟨by simp, by simp, .empty (by simpa) (by simpa)⟩

/-- From an empty slot, every callback keeps the configuration and the ports, and leaves the slot as `SlotAfter` says. -/
theorem dispatch_slot {tag : Tag} {t : Word} {s : State} (hc : CfgLegal s.cfg) (hactive : s.sched.active = false)
    (htag : s.sched.tag = .none) :
    (dispatch tag t s).cfg = s.cfg ∧ (dispatch tag t s).env = s.env ∧ SlotAfter t tag (dispatch tag t s).sched := by
  rcases dispatch_cases tag t s with
    ⟨_, _, h⟩ | ⟨rfl, _, h⟩ | ⟨hhandover, _, h⟩ | ⟨_, _, h⟩ | ⟨_, h⟩ | ⟨_, h⟩ <;> rw [h]
  · obtain ⟨hpos, hmax⟩ := rampDelay_bounds hc (rampCopies s.cfg).fs
    exact ⟨by simp, by simp, .nextRampStep _ (by simp) (by simp) (by simp) hpos hmax⟩
  · exact rampStep_slot hc hactive htag
  · exact ⟨by simp, by simp,
      .firstCommutation _ hhandover (by simp) (by simp) (by simp) (u31sat_le s.bemf.period)⟩
  · exact ⟨by simp, by simp, .empty (by simpa) (by simpa)⟩
  · exact ⟨by simp, by simp, .empty (by simpa) (by simpa)⟩
  · exact ⟨rfl, rfl, .empty hactive htag⟩

/-- An expiry of a tagged slot answers a next state. -/
theorem exec_timerExpire {s : State} (hc : CfgLegal s.cfg) (hslot : SlotTagged s) (hactive : s.sched.active = true) :
    ∃ u, exec .timerExpire s = .next u ∧ u.cfg = s.cfg ∧ u.env = s.env ∧
      SlotAfter s.sched.deadline s.sched.tag u.sched := by
  have htag : s.sched.tag ≠ .none := fun h => by simp [hslot.mp h] at hactive
  have hexec : exec .timerExpire s = .next (dispatch s.sched.tag s.sched.deadline (schedCancel s)) := by
    rcases execTimerExpire_cases s with ⟨_, _, h⟩ | ⟨_, hnone, _⟩ | ⟨hempty, _⟩
    · exact h
    · exact absurd hnone htag
    · simp [hempty] at hactive
  exact ⟨_, hexec, dispatch_slot (s := schedCancel s) hc rfl rfl⟩

theorem SlotAfter.slotTagged {t : Word} {tag : Tag} {u : State} (h : SlotAfter t tag u.sched) : SlotTagged u := by
  unfold SlotTagged
  cases h with
  | empty hactive htag => simp [hactive, htag]
  | nextRampStep d hactive htag => simp [hactive, htag]
  | firstCommutation d _ hactive htag => simp [hactive, htag]

/-! ### The drain -/

/-- How many expiries a slot due by time `t` can still bring: one for each microsecond it is overdue and one more, and
another after a handover, whose commutation may be due at once. -/
def drainBudget (t : Word) (c : Sched) : ℕ := (t - c.deadline).toNat + if c.tag = .handover then 2 else 1

theorem drainBudget_pos (t : Word) (c : Sched) : 1 ≤ drainBudget t c := by
  unfold drainBudget
  split <;> omega

theorem drainBudget_le (t : Word) (c : Sched) : drainBudget t c ≤ (t - c.deadline).toNat + 2 := by
  unfold drainBudget
  split <;> omega

/-- A deadline moved `d` microseconds on, and still due, is `d` microseconds less overdue. -/
theorem overdue_add {t deadline d : Word} (hdue : (t - deadline).toNat < 2 ^ 31)
    (hdue' : (t - (deadline + d)).toNat < 2 ^ 31) (hmax : d.toNat ≤ 0x7FFFFFFF) :
    (t - (deadline + d)).toNat + d.toNat = (t - deadline).toNat := by
  bv_omega

/-- An expiry whose callback leaves another one due has used up budget. -/
theorem SlotAfter.drainBudget_lt {t : Word} {c c' : Sched} (h : SlotAfter c.deadline c.tag c')
    (hdue : (t - c.deadline).toNat < 2 ^ 31) (hactive' : c'.active = true)
    (hdue' : (t - c'.deadline).toNat < 2 ^ 31) : drainBudget t c' < drainBudget t c := by
  unfold drainBudget
  cases h with
  | empty hactive => simp [hactive] at hactive'
  | nextRampStep d _ htag hdeadline hpos hmax =>
    rw [hdeadline] at hdue' ⊢
    have hless := overdue_add hdue hdue' hmax
    rw [htag, if_neg (by decide)]
    split <;> omega
  | firstCommutation d hhandover _ htag hdeadline hmax =>
    rw [hdeadline] at hdue' ⊢
    have hless := overdue_add hdue hdue' hmax
    rw [htag, hhandover, if_neg (by decide), if_pos rfl]
    omega

theorem core_run_succ {s u : State} (h : step s = .next u) (n : ℕ) :
    Host.Core.run Sys2Proof.core (n + 1) s = Host.Core.run Sys2Proof.core n u := by
  have hcore : Sys2Proof.core.step s = .next u := h
  simp only [Host.Core.run, hcore]

/-- The drain before an accepted input ends within its budget. -/
theorem drain_ends {r : InputRecord} {rest : List InputRecord} {i : Instr} (m : ℕ) (s : State) (hc : CfgLegal s.cfg)
    (hslot : SlotTagged s) (hin : s.env.inputs = r :: rest) (hscreen : screenInput r s = .ok i)
    (hbudget : expiryFirst i r.t s = true → drainBudget r.t s.sched ≤ m) :
    ∃ n u, n ≤ m ∧ Host.Core.run Sys2Proof.core n s = .next u ∧ u.env = s.env ∧ expiryFirst i r.t u = false := by
  induction m generalizing s with
  | zero =>
    refine ⟨0, s, le_rfl, rfl, rfl, ?_⟩
    by_contra hfirst
    have := hbudget (by simpa using hfirst)
    have := drainBudget_pos r.t s.sched
    omega
  | succ m ih =>
    cases hfirst : expiryFirst i r.t s with
    | false => exact ⟨0, s, Nat.zero_le _, rfl, rfl, hfirst⟩
    | true =>
      obtain ⟨_, hactive, hdue⟩ := (expiryFirst_iff i r.t s).mp hfirst
      obtain ⟨u, hexec, hcfg, henv, hafter⟩ := exec_timerExpire hc hslot hactive
      have hstep : step s = .next u := by rw [step_of_accepted hin hscreen, if_pos hfirst, hexec]
      have hbudget' : expiryFirst i r.t u = true → drainBudget r.t u.sched ≤ m := fun hfirst' => by
        obtain ⟨_, hactive', hdue'⟩ := (expiryFirst_iff i r.t u).mp hfirst'
        have := hafter.drainBudget_lt hdue hactive' hdue'
        have := hbudget hfirst
        omega
      obtain ⟨n, v, hn, hrun, henv', hdone⟩ :=
        ih u (hcfg ▸ hc) hafter.slotTagged (henv ▸ hin) ((screenInput_congr henv r).trans hscreen) hbudget'
      exact ⟨n + 1, v, by omega, by rw [core_run_succ hstep, hrun], henv'.trans henv, hdone⟩

/-- Settles O52. -/
theorem drainReachesInput : Obligations.DrainReachesInput := fun s r _ _ hc hslot hin hscreen =>
  drain_ends _ s hc hslot hin hscreen fun _ => drainBudget_le r.t s.sched

end Sys2Proof.Machine
end

section
/-! The decoder against the encoder (rules R150 to R163): the fields of a command word and the word of its fields, what
each encoded instruction decodes to, and which instruction's encoding a decoded record is. -/

namespace Sys2Proof

open Sys2Proof.Laws.EncodingShape (reservedField_commandWord)

/-! ### The fields of a command word (rules R150 to R155) -/

section
variable (opc : BitVec 8) (d : BitVec 1) (s st : BitVec 3)

@[simp] theorem opcField_commandWord : opcField (commandWord opc d s st) = opc :=
  BitVec.extractLsb'_append_eq_right

@[simp] theorem dField_commandWord : dField (commandWord opc d s st) = d :=
  (BitVec.extractLsb'_append_eq_of_le (by decide)).trans BitVec.extractLsb'_append_eq_right

@[simp] theorem sField_commandWord : sField (commandWord opc d s st) = s :=
  (BitVec.extractLsb'_append_eq_of_le (by decide)).trans <|
    (BitVec.extractLsb'_append_eq_of_le (by decide)).trans BitVec.extractLsb'_append_eq_right

@[simp] theorem stField_commandWord : stField (commandWord opc d s st) = st :=
  (BitVec.extractLsb'_append_eq_of_le (by decide)).trans <|
    (BitVec.extractLsb'_append_eq_of_le (by decide)).trans <|
      (BitVec.extractLsb'_append_eq_of_le (by decide)).trans BitVec.extractLsb'_append_eq_right

end

/-- No bit of a word lies outside its fields. -/
theorem commandWord_fields {w : Word} (h : reservedField w = 0) :
    commandWord (opcField w) (dField w) (sField w) (stField w) = w := by
  have hreserved : 0#17 = w.extractLsb' 15 17 := h.symm
  unfold commandWord opcField dField sField stField
  rw [hreserved, BitVec.extractLsb'_append_extractLsb'_eq_extractLsb' (show 15 = 12 + 3 from rfl),
    BitVec.extractLsb'_append_extractLsb'_eq_extractLsb' (show 12 = 9 + 3 from rfl),
    BitVec.extractLsb'_append_extractLsb'_eq_extractLsb' (show 9 = 8 + 1 from rfl),
    BitVec.extractLsb'_append_extractLsb'_eq_extractLsb' (show 8 = 0 + 8 from rfl)]
  exact BitVec.extractLsb'_eq_self

@[simp] theorem dirOfBit_bitOfDir (d : Dir) : dirOfBit (bitOfDir d) = d := by cases d <;> rfl

@[simp] theorem bitOfDir_dirOfBit (b : BitVec 1) : bitOfDir (dirOfBit b) = b := by
  revert b
  decide

/-! ### Command words (rules R156, R158) -/

/-- A word that decodes has its reserved bits clear. -/
theorem exists_commandWord_of_decodeCommand {w : Word} {i : Instr} (h : decodeCommand w = .ok i) :
    ∃ opc d s st, w = commandWord opc d s st := by
  unfold decodeCommand at h
  split at h
  · cases h
  next hreserved => exact ⟨_, _, _, _, (commandWord_fields (not_not.mp hreserved)).symm⟩

/-- An opcode that uses no field accepts the word of the opcode alone. -/
theorem noFields_commandWord_eq_ok {opc : BitVec 8} {d : BitVec 1} {s st : BitVec 3} {n : ℕ} {i j : Instr}
    (hopc : opc.toNat = n) (h : noFields (commandWord opc d s st) j = .ok i) :
    commandWord opc d s st = plainWord (BitVec.ofNat 8 n) ∧ i = j := by
  unfold noFields at h
  split at h <;> cases h
  next hfields =>
  simp only [dField_commandWord, sField_commandWord, stField_commandWord] at hfields
  obtain ⟨rfl, rfl, rfl⟩ := hfields
  rw [← hopc, BitVec.ofNat_toNat, BitVec.setWidth_eq]
  exact ⟨rfl, rfl⟩

/-- The word of a well-formed command decodes to it. -/
theorem decodeCommand_of_encode {w : Word} {i : Instr} (hc : i.isCommand = true) (hwf : i.wellFormed = true)
    (hw : encode i = [w]) : decodeCommand w = .ok i := by
  cases i with
  | rampStart d =>
    cases hw
    simp [decodeCommand, reservedField_commandWord]
  | invCommutate d step =>
    cases hw
    have hstep : ¬5 < step.toNat := by simpa [Instr.wellFormed] using hwf
    simp [decodeCommand, reservedField_commandWord, hstep]
  | invSetPhase phase st =>
    cases hw
    have hrange : ¬2 < phase.toNat ∧ ¬5 < st.toNat := by simpa [Instr.wellFormed] using hwf
    simp [decodeCommand, reservedField_commandWord, hrange]
  | reset | adcSample | fastTick | lowTick | timerExpire | faultIn | hostWrite | hostRead | timeAdvance => cases hc
  | _ => cases hw; rfl

/-- A word that decodes is the word of a well-formed instruction. -/
theorem encode_of_decodeCommand {w : Word} {i : Instr} (h : decodeCommand w = .ok i) :
    i.wellFormed = true ∧ encode i = [w] := by
  obtain ⟨opc, d, s, st, rfl⟩ := exists_commandWord_of_decodeCommand h
  simp only [decodeCommand, reservedField_commandWord, opcField_commandWord, dField_commandWord, sField_commandWord,
    stField_commandWord, ne_eq, not_true_eq_false, if_false] at h
  split at h
  -- `RAMP_START`, `INV_COMMUTATE` and `INV_SET_PHASE`, which have fields of their own; an unlisted opcode; all others.
  case h_9 hopc =>
    obtain rfl : opc = 0x20 := BitVec.eq_of_toNat_eq hopc
    split at h <;> cases h
    next hunused =>
    obtain ⟨rfl, rfl⟩ := hunused
    exact ⟨rfl, by rw [encode, bitOfDir_dirOfBit]⟩
  case h_13 hopc =>
    obtain rfl : opc = 0x30 := BitVec.eq_of_toNat_eq hopc
    split at h
    · cases h
    next hst =>
    split at h <;> cases h
    next hrange =>
    obtain rfl := not_not.mp hst
    exact ⟨decide_eq_true (not_lt.mp hrange), by rw [encode, bitOfDir_dirOfBit]⟩
  case h_15 hopc =>
    obtain rfl : opc = 0x32 := BitVec.eq_of_toNat_eq hopc
    split at h
    · cases h
    next hd =>
    split at h
    · cases h
    next hphase =>
    split at h <;> cases h
    next hstate =>
    obtain rfl := not_not.mp hd
    exact ⟨by simp [Instr.wellFormed, not_lt.mp hphase, not_lt.mp hstate], rfl⟩
  case h_23 => cases h
  all_goals
    rename_i hopc
    obtain ⟨hw, rfl⟩ := noFields_commandWord_eq_ok hopc h
    rw [hw]
    exact ⟨rfl, rfl⟩

/-! ### Illegal words (rule R158) -/

theorem opcField_toNat (w : Word) : (opcField w).toNat = w.toNat % 2 ^ 8 := BitVec.extractLsb'_toNat 0 8 w

theorem dField_toNat (w : Word) : (dField w).toNat = w.toNat / 2 ^ 8 % 2 := by
  rw [dField, BitVec.extractLsb'_toNat, Nat.shiftRight_eq_div_pow, pow_one]

theorem sField_toNat (w : Word) : (sField w).toNat = w.toNat / 2 ^ 9 % 2 ^ 3 := by
  rw [sField, BitVec.extractLsb'_toNat, Nat.shiftRight_eq_div_pow]

theorem stField_toNat (w : Word) : (stField w).toNat = w.toNat / 2 ^ 12 % 2 ^ 3 := by
  rw [stField, BitVec.extractLsb'_toNat, Nat.shiftRight_eq_div_pow]

theorem reservedField_toNat (w : Word) : (reservedField w).toNat = w.toNat / 2 ^ 15 := by
  have hw := w.isLt
  rw [reservedField, BitVec.extractLsb'_toNat, Nat.shiftRight_eq_div_pow]
  omega

/-- Rule R158 on the fields of rule R150. -/
theorem isIllegal_iff (w : Word) :
    Machine.IsIllegal w ↔
      (opcField w).toNat ∉ Machine.listedOpcodes ∨ reservedField w ≠ 0 ∨
        (dField w ≠ 0 ∧ (opcField w).toNat ≠ 0x20 ∧ (opcField w).toNat ≠ 0x30) ∨
        (sField w ≠ 0 ∧ (opcField w).toNat ≠ 0x30 ∧ (opcField w).toNat ≠ 0x32) ∨
        (stField w ≠ 0 ∧ (opcField w).toNat ≠ 0x32) ∨
        ((opcField w).toNat = 0x30 ∧ 5 < (sField w).toNat) ∨
        ((opcField w).toNat = 0x32 ∧ (2 < (sField w).toNat ∨ 5 < (stField w).toNat)) := by
  simp only [Machine.IsIllegal, ← opcField_toNat, ← dField_toNat, ← sField_toNat, ← stField_toNat,
    ← reservedField_toNat, ne_eq, ← BitVec.toNat_inj]
  rfl

theorem ite_ok_isError_iff {c : Prop} [Decidable c] {i : Instr} {e : IllegalWord} :
    (∃ why, (if c then .ok i else .error e : Except IllegalWord Instr) = .error why) ↔ ¬c := by
  split <;> simp [*]

theorem ite_error_isError_iff {c : Prop} [Decidable c] {x : Except IllegalWord Instr} {e : IllegalWord} :
    (∃ why, (if c then .error e else x) = .error why) ↔ c ∨ ∃ why, x = .error why := by
  split <;> simp [*]

/-- The decoder refuses exactly the words of rule R158. -/
theorem isIllegal_iff_decodeCommand (w : Word) : Machine.IsIllegal w ↔ ∃ why, decodeCommand w = .error why := by
  rw [isIllegal_iff, decodeCommand, ite_error_isError_iff]
  by_cases hreserved : reservedField w = 0
  case neg => exact iff_of_true (.inr (.inl hreserved)) (.inl hreserved)
  rw [hreserved]
  split
  -- `RAMP_START`, `INV_COMMUTATE` and `INV_SET_PHASE`, which have fields of their own; an unlisted opcode; all others.
  case h_9 hopc =>
    rw [hopc, ite_ok_isError_iff, not_and_or]
    simp [Machine.listedOpcodes]
  case h_13 hopc =>
    rw [hopc, ite_error_isError_iff, ite_error_isError_iff]
    simp [Machine.listedOpcodes]
  case h_15 hopc =>
    rw [hopc, ite_error_isError_iff, ite_error_isError_iff, ite_error_isError_iff]
    simp [Machine.listedOpcodes]
  case h_23 =>
    refine iff_of_true (.inl ?_) (.inr ⟨_, rfl⟩)
    simp only [Machine.listedOpcodes, List.mem_cons, List.not_mem_nil, or_false, not_or]
    and_intros <;> assumption
  all_goals
    rename_i hopc
    rw [hopc, noFields, ite_ok_isError_iff, not_and_or, not_and_or]
    simp [Machine.listedOpcodes]

/-! ### Event records (rules R161 to R163) -/

theorem adcValue_eq_ok_iff {w : Word} {v : Half} : adcValue w = .ok v ↔ v.setWidth 32 = w := by
  have hv := v.isLt
  rw [← BitVec.toNat_inj, BitVec.toNat_setWidth]
  unfold adcValue
  split
  · rw [Except.ok.injEq, ← BitVec.toNat_inj, BitVec.toNat_setWidth]
    omega
  · exact iff_of_false nofun (by omega)

theorem widthOf_eq_ok_iff {l : List Word} {n : AccessWidth} : widthOf l = .ok n ↔ widthWords n = l := by
  constructor
  · intro h
    unfold widthOf at h
    split at h
    · cases h; rfl
    · repeat' split at h
      all_goals cases h
      all_goals subst_vars; rfl
    · cases h
  · rintro rfl
    cases n <;> rfl

theorem bind_eq_ok_iff {α β : Type} {x : Except EventReject α} {f : α → Except EventReject β} {b : β} :
    (x >>= f) = .ok b ↔ ∃ a, x = .ok a ∧ f a = .ok b := by
  cases x <;> simp [bind, Except.bind]

theorem decodeEvent_adcSample_iff {ia ib ic va vb vc : Word} {i : Instr} :
    decodeEvent 0x1 [ia, ib, ic, va, vb, vc] = .ok i ↔
      ∃ a b c x y z : Half, Instr.adcSample a b c x y z = i ∧
        encode (.adcSample a b c x y z) = [0x1, ia, ib, ic, va, vb, vc] := by
  change (show Except EventReject Instr from do
    let ia ← adcValue ia
    let ib ← adcValue ib
    let ic ← adcValue ic
    let va ← adcValue va
    let vb ← adcValue vb
    let vc ← adcValue vc
    .ok (.adcSample ia ib ic va vb vc)) = .ok i ↔ _
  simp only [bind_eq_ok_iff, adcValue_eq_ok_iff, encode, List.cons.injEq, Except.ok.injEq]
  constructor
  · rintro ⟨a, rfl, b, rfl, c, rfl, x, rfl, y, rfl, z, rfl, rfl⟩
    exact ⟨a, b, c, x, y, z, by simp⟩
  · rintro ⟨a, b, c, x, y, z, rfl, -, rfl, rfl, rfl, rfl, rfl, rfl, -⟩
    exact ⟨a, rfl, b, rfl, c, rfl, x, rfl, y, rfl, z, rfl, rfl⟩

theorem decodeEvent_hostWrite_iff {off v : Word} {rest : List Word} {i : Instr} :
    decodeEvent 0x6 (off :: v :: rest) = .ok i ↔ ∃ n, widthWords n = rest ∧ Instr.hostWrite off v n = i := by
  change (show Except EventReject Instr from do let n ← widthOf rest; .ok (.hostWrite off v n)) = .ok i ↔ _
  simp only [bind_eq_ok_iff, widthOf_eq_ok_iff, Except.ok.injEq]

theorem decodeEvent_hostRead_iff {off : Word} {rest : List Word} {i : Instr} :
    decodeEvent 0x7 (off :: rest) = .ok i ↔ ∃ n, widthWords n = rest ∧ Instr.hostRead off n = i := by
  change (show Except EventReject Instr from do let n ← widthOf rest; .ok (.hostRead off n)) = .ok i ↔ _
  simp only [bind_eq_ok_iff, widthOf_eq_ok_iff, Except.ok.injEq]

theorem decodeEvent_internal (payload : List Word) : decodeEvent 0x4 payload = .error .internalCode := rfl

theorem decodeEvent_reserved {code : Word} (payload : List Word) (hlo : 0x9 ≤ code.toNat) (hhi : code.toNat ≤ 0xF) :
    decodeEvent code payload = .error .reservedCode := by
  obtain rfl | rfl | rfl | rfl | rfl | rfl | rfl :
      code = 0x9 ∨ code = 0xA ∨ code = 0xB ∨ code = 0xC ∨ code = 0xD ∨ code = 0xE ∨ code = 0xF := by bv_omega
  all_goals rfl

theorem decodeEvent_formatBits {code : Word} (payload : List Word) (h : 0xF < code.toNat) :
    decodeEvent code payload = .error .formatBits := by
  refine if_pos fun hzero => ?_
  have hnat : (code.extractLsb' 4 28).toNat = 0 := congrArg BitVec.toNat hzero
  rw [BitVec.extractLsb'_toNat, Nat.shiftRight_eq_div_pow] at hnat
  have hcode := code.isLt
  omega

theorem code_le_of_decodeEvent {code : Word} {payload : List Word} {i : Instr} (h : decodeEvent code payload = .ok i) :
    code.toNat ≤ 0x8 := by
  by_contra hcode
  by_cases hhi : code.toNat ≤ 0xF
  · rw [decodeEvent_reserved payload (by omega) hhi] at h; cases h
  · rw [decodeEvent_formatBits payload (by omega)] at h; cases h

/-- The record of an input event decodes to it. -/
theorem decodeEvent_of_encode {code : Word} {payload : List Word} {i : Instr} (hi : i.isInput = true)
    (hrecord : encode i = code :: payload) : decodeEvent code payload = .ok i := by
  cases i with
  | adcSample ia ib ic va vb vc => cases hrecord; exact decodeEvent_adcSample_iff.mpr ⟨ia, ib, ic, va, vb, vc, rfl, rfl⟩
  | hostWrite off v n => cases hrecord; exact decodeEvent_hostWrite_iff.mpr ⟨n, rfl, rfl⟩
  | hostRead off n => cases hrecord; exact decodeEvent_hostRead_iff.mpr ⟨n, rfl, rfl⟩
  | reset | fastTick | lowTick | faultIn | timeAdvance => cases hrecord; rfl
  | _ => cases hi

/-- An event without a payload: its code alone decodes to it, and any payload word is refused. -/
theorem encode_of_bare_code {code : Word} {payload : List Word} {i j : Instr} (hnil : decodeEvent code [] = .ok j)
    (hcons : ∀ x xs, decodeEvent code (x :: xs) = .error .payloadShape) (hinput : j.isInput = true)
    (hj : encode j = [code]) (h : decodeEvent code payload = .ok i) : i.isInput = true ∧ encode i = code :: payload := by
  cases payload with
  | nil =>
    obtain rfl : j = i := Except.ok.inj (hnil.symm.trans h)
    exact ⟨hinput, hj⟩
  | cons x xs => rw [hcons] at h; cases h

/-- A record that decodes is the record of an input event. -/
theorem encode_of_decodeEvent {code : Word} {payload : List Word} {i : Instr} (h : decodeEvent code payload = .ok i) :
    i.isInput = true ∧ encode i = code :: payload := by
  have hcode := code_le_of_decodeEvent h
  obtain rfl | rfl | rfl | rfl | rfl | rfl | rfl | rfl | rfl :
      code = 0x0 ∨ code = 0x1 ∨ code = 0x2 ∨ code = 0x3 ∨ code = 0x4 ∨ code = 0x5 ∨ code = 0x6 ∨ code = 0x7 ∨
        code = 0x8 := by bv_omega
  · exact encode_of_bare_code rfl (fun _ _ => rfl) rfl rfl h
  · match payload, h with
    | [ia, ib, ic, va, vb, vc], h =>
      obtain ⟨a, b, c, x, y, z, rfl, hrecord⟩ := decodeEvent_adcSample_iff.mp h
      exact ⟨rfl, hrecord⟩
  · exact encode_of_bare_code rfl (fun _ _ => rfl) rfl rfl h
  · exact encode_of_bare_code rfl (fun _ _ => rfl) rfl rfl h
  · rw [decodeEvent_internal] at h; cases h
  · exact encode_of_bare_code rfl (fun _ _ => rfl) rfl rfl h
  · match payload, h with
    | off :: v :: rest, h =>
      obtain ⟨n, rfl, rfl⟩ := decodeEvent_hostWrite_iff.mp h
      exact ⟨rfl, rfl⟩
  · match payload, h with
    | off :: rest, h =>
      obtain ⟨n, rfl, rfl⟩ := decodeEvent_hostRead_iff.mp h
      exact ⟨rfl, rfl⟩
  · exact encode_of_bare_code rfl (fun _ _ => rfl) rfl rfl h

/-! ### Both directions -/

/-- Every instruction but `TIMER_EXPIRE` reaches the core as a command word or as an event record. -/
theorem isCommand_or_isInput {i : Instr} (h : i ≠ .timerExpire) :
    (i.isCommand = true ∧ ∃ w, encode i = [w]) ∨
      (i.isCommand = false ∧ i.isInput = true ∧ ∃ code payload, encode i = code :: payload) := by
  cases i with
  | timerExpire => exact absurd rfl h
  | reset | adcSample | fastTick | lowTick | faultIn | hostWrite | hostRead | timeAdvance =>
    exact .inr ⟨rfl, rfl, _, _, rfl⟩
  | _ => exact .inl ⟨rfl, _, rfl⟩

/-- Settles O1. -/
theorem encodingRoundTrips : Obligations.EncodingRoundTrips := by
  refine ⟨fun i hwf hi => ?_, rfl⟩
  obtain ⟨hc, w, hw⟩ | ⟨hc, hinput, code, payload, hrecord⟩ := isCommand_or_isInput hi
  · rw [hc, hw]
    exact congrArg Except.toOption (decodeCommand_of_encode hc hwf hw)
  · rw [hc, hrecord]
    exact congrArg Except.toOption (decodeEvent_of_encode hinput hrecord)

/-- Settles O2. -/
theorem commandWordsHaveOneMeaning : Obligations.CommandWordsHaveOneMeaning := fun _ _ h =>
  ⟨Machine.isCommand_of_decodeCommand h, encode_of_decodeCommand h⟩

/-- Settles O3. -/
theorem eventRecordsHaveOneMeaning : Obligations.EventRecordsHaveOneMeaning := fun _ _ _ => encode_of_decodeEvent

/-- Settles O5: each word is evaluated by the decoder. -/
theorem writtenWordsDecode : Obligations.WrittenWordsDecode :=
  ⟨rfl, rfl, rfl, rfl, rfl, rfl, rfl, rfl, rfl, rfl, rfl, rfl⟩

end Sys2Proof

namespace Sys2Proof.Machine

/-! ### Refused words and records (rules R158, R163) -/

theorem runCommandWord_of_error {w : Word} {why : IllegalWord} (h : decodeCommand w = .error why) (s : State) :
    runCommandWord w s = .next (withStatus (opcField w) .illegal s) := by
  unfold runCommandWord
  rw [h]
  rfl

/-- Settles O4. -/
theorem illegalWordsAreRefused : Obligations.IllegalWordsAreRefused := by
  refine ⟨fun w s hw => ?_, fun w hw => ?_⟩
  · obtain ⟨why, hwhy⟩ := (isIllegal_iff_decodeCommand w).mp hw
    exact runCommandWord_of_error hwhy (answered 0 s)
  · cases hdecode : decodeCommand w with
    | ok i => exact ⟨i, rfl⟩
    | error why => exact absurd ((isIllegal_iff_decodeCommand w).mpr ⟨why, hdecode⟩) hw

theorem step_of_notAnEvent {s : State} {r : InputRecord} {rest : List InputRecord} {why : EventReject}
    (hin : s.env.inputs = r :: rest) (h : decodeEvent r.code r.payload = .error why) :
    step s = .refused (.notAnEvent why) :=
  step_of_refused hin (by rw [screenInput, h])

/-- Settles O8. -/
theorem reservedInputsAreRefused : Obligations.ReservedInputsAreRefused := by
  rintro s r rest hin (hinternal | ⟨hlo, hhi⟩)
  · exact ⟨.internalCode, step_of_notAnEvent hin (hinternal ▸ decodeEvent_internal r.payload)⟩
  · exact ⟨.reservedCode, step_of_notAnEvent hin (decodeEvent_reserved r.payload hlo hhi)⟩

/-! ### Diagnostic commands (rule R160) -/

theorem busyUnlessStopped_of_ne {s : State} (h : s.ctl.mode ≠ .stopped) : busyUnlessStopped s = .busy := by
  unfold busyUnlessStopped
  cases hmode : s.ctl.mode with
  | stopped => exact absurd hmode h
  | openLoop | closedLoop => rfl

/-- A command whose first check is for `MODE = Stopped` is refused with `BUSY` outside it. -/
theorem command_of_busy {s : State} (h : s.ctl.mode ≠ .stopped) (opc : BitVec 8) (checks : List CmdErr)
    (effect : State → State) :
    command opc (busyUnlessStopped s :: checks) effect s = .next (withStatus opc .busy s) := by
  rw [busyUnlessStopped_of_ne h]
  rfl

theorem firstError_mem (checks : List CmdErr) : firstError checks = .ok ∨ firstError checks ∈ checks := by
  induction checks with
  | nil => exact .inl rfl
  | cons c rest ih =>
    by_cases hc : c = .ok
    · subst hc
      exact ih.imp_right (List.mem_cons_of_mem _)
    · exact .inr (by simp [firstError_cons_of_ne c rest hc])

/-- A command without a check for `BUSY` never reports it. -/
theorem lastErr_ne_busy_of_command {opc : BitVec 8} {checks : List CmdErr} {effect : State → State} {s t : State}
    (hbusy : .busy ∉ checks) (h : command opc checks effect s = .next t) : t.iface.lastErr ≠ .busy := by
  obtain ⟨_, hnext⟩ | ⟨hne, hnext⟩ := command_cases h
  · cases hnext
    exact nofun
  · cases hnext
    have hmem := (firstError_mem checks).resolve_left hne
    exact fun heq => hbusy (heq ▸ hmem)

theorem exists_hphaseOfField {v : BitVec 3} (h : v.toNat ≤ 2) : ∃ p, hphaseOfField v = some p := by
  unfold hphaseOfField
  interval_cases v.toNat <;> exact ⟨_, rfl⟩

theorem exists_outStateOfField {v : BitVec 3} (h : v.toNat ≤ 5) : ∃ o, outStateOfField v = some o := by
  unfold outStateOfField
  interval_cases v.toNat <;> exact ⟨_, rfl⟩

theorem busy_ne_faultIfLatched (s : State) : .busy ≠ faultIfLatched s := by
  unfold faultIfLatched
  split <;> nofun

theorem busy_ne_notReadyUnlessInit (s : State) : .busy ≠ notReadyUnlessInit s := by
  unfold notReadyUnlessInit
  split <;> nofun

theorem busy_ne_badArgIf (b : Bool) : .busy ≠ badArgIf b := by cases b <;> nofun

/-- Outside Stopped a diagnostic command reports `BUSY` at the opcode of its word. -/
theorem exec_diagnostic_of_not_stopped {i : Instr} (hwf : i.wellFormed = true) (hi : isDiagnostic i = true) (s : State)
    (hmode : s.ctl.mode ≠ .stopped) :
    ∃ opc d step st, encode i = [commandWord opc d step st] ∧ exec i s = .next (withStatus opc .busy s) := by
  cases i with
  | bemfInit | bemfReset | schedStart | schedCancel | rampStart | rampStop | rampStopSoft | invDisable =>
    rw [exec]
    exact ⟨_, _, _, _, rfl, command_of_busy hmode _ _ _⟩
  | invCommutate d step =>
    have hstep : step.toNat < 6 := Nat.lt_succ_of_le (of_decide_eq_true hwf)
    refine ⟨_, _, _, _, rfl, ?_⟩
    simp only [exec, execInvCommutate, stepOfField, dif_pos hstep, command_of_busy hmode]
  | invSetPhase phase st =>
    obtain ⟨hphase, hst⟩ : phase.toNat ≤ 2 ∧ st.toNat ≤ 5 := by simpa [Instr.wellFormed] using hwf
    obtain ⟨p, hp⟩ := exists_hphaseOfField hphase
    obtain ⟨o, ho⟩ := exists_outStateOfField hst
    refine ⟨_, _, _, _, rfl, ?_⟩
    simp only [exec, execInvSetPhase, hp, ho, command_of_busy hmode]
  | _ => cases hi

/-- The checks of the other commands are `FAULT`, `NOT_READY` and `BAD_ARG` (rule R480). -/
theorem lastErr_ne_busy_of_not_diagnostic {i : Instr} {s t : State} (hc : i.isCommand = true)
    (hi : isDiagnostic i = false) (h : exec i s = .next t) : t.iface.lastErr ≠ .busy := by
  cases i with
  | nop | bemfClearFlag | bemfGetStatus | schedIsActive | rampGetState | motorStop | faultClear | pidReset | telemetry
  | clearSticky =>
    rw [exec] at h
    exact lastErr_ne_busy_of_command List.not_mem_nil h
  | setSpeed =>
    rw [exec] at h
    refine lastErr_ne_busy_of_command ?_ h
    simp [busy_ne_faultIfLatched, busy_ne_notReadyUnlessInit, busy_ne_badArgIf]
  | setSlope =>
    rw [exec] at h
    refine lastErr_ne_busy_of_command ?_ h
    simp [busy_ne_badArgIf]
  | reset | adcSample | fastTick | lowTick | timerExpire | faultIn | hostWrite | hostRead | timeAdvance => cases hc
  | _ => cases hi

/-- Settles O10. -/
theorem diagnosticCommandsNeedStopped : Obligations.DiagnosticCommandsNeedStopped := by
  refine ⟨fun i w s hwf hi hw hmode => ?_, fun i s t => lastErr_ne_busy_of_not_diagnostic⟩
  obtain ⟨opc, d, step, st, hencode, hexec⟩ := exec_diagnostic_of_not_stopped hwf hi s hmode
  obtain rfl : commandWord opc d step st = w := by rw [hencode] at hw; cases hw; rfl
  rw [hexec, ← opcField, opcField_commandWord]

end Sys2Proof.Machine
end

section
/-! The commands that only set an element or take a snapshot (rules R219 to R223, R258, R295, R407 to R409, R450,
R452 to R454): when the checks pass, the effect and `CMD_STATUS` are all that a command writes, and the packed words of
the snapshots are sums of their fields. -/

namespace Sys2Proof.Machine

/-! ### Commands that complete -/

/-- A command whose checks pass ends with `CMD_STATUS` at its opcode and `OK` (rule R151). -/
theorem command_completes {opc : BitVec 8} {checks : List CmdErr} {effect : State → State} {s : State}
    (h : firstError checks = .ok) : command opc checks effect s = .next (withStatus opc .ok (effect s)) :=
  command_of_ok h

/-- In Stopped the check of a diagnostic command passes (rule R160). -/
theorem firstError_busyUnlessStopped {s : State} (h : s.ctl.mode = .stopped) :
    firstError [busyUnlessStopped s] = .ok := by
  rw [(busyUnlessStopped_eq_ok s).mpr h]
  rfl

/-- A datum that compares `>= 0` is no NaN, so it is finite unless it is an infinity. -/
theorem nonnegFinite_of_ge_zero {w : Word} (hge : F32.ge (F32.ofWord w) ⟨0⟩ = true)
    (hinf : (F32.ofWord w).isInf = false) : nonnegFinite w = true := by
  obtain ⟨_, hnan, _⟩ := (F32.ge_iff _ _).mp hge
  have hfinite : (F32.ofWord w).isFinite = true := by
    simp only [F32.isNaN, F32.isInf, F32.isFinite, decide_eq_false_iff_not, decide_eq_true_eq] at *
    omega
  rw [nonnegFinite, hfinite, hge]
  rfl

/-- Settles O12. -/
theorem flagCommandsComplete : Obligations.FlagCommandsComplete := by
  refine fun s => ⟨?_, ?_, ?_, ?_, ?_, fun hge hinf => ?slope⟩ <;> rw [exec]
  case slope =>
    have hslope : firstError [badArgIf (!nonnegFinite s.iface.arg0)] = .ok := by
      rw [nonnegFinite_of_ge_zero hge hinf]
      rfl
    exact command_completes hslope
  all_goals exact command_completes firstError_nil

/-- Settles O13. -/
theorem bemfInitAndResetComplete : Obligations.BemfInitAndResetComplete := by
  refine fun s hmode => ⟨?_, ?_⟩ <;> rw [exec] <;> exact command_completes (firstError_busyUnlessStopped hmode)

/-! ### Packed words -/

/-- Joining two bit vectors adds the upper one's value above the lower one's bits. -/
theorem append_toNat {m n : ℕ} (x : BitVec m) (y : BitVec n) : (x ++ y).toNat = 2 ^ n * x.toNat + y.toNat := by
  rw [BitVec.toNat_append, ← Nat.shiftLeft_add_eq_or_of_lt y.isLt, Nat.shiftLeft_eq, Nat.mul_comm]

theorem stepCode_toNat (k : StepIx) : (stepCode k).toNat = k.val :=
  Nat.mod_eq_of_lt (k.isLt.trans (by decide))

/-- `ARG0` of `BEMF_GET_STATUS` (rule R222). -/
theorem bemfSnapshotWord_toNat (b : Bemf) :
    (bemfSnapshotWord b).toNat = b.zcFlag.toNat + 2 * b.valid.toNat + 4 * (cphaseCode b.zcPhase).toNat := by
  simp only [bemfSnapshotWord, append_toNat, BitVec.toNat_ofBool, BitVec.toNat_ofNat]
  omega

/-- `ARG3` of `BEMF_GET_STATUS` (rules R52, R222). -/
theorem bemfCountsWord_toNat (b : Bemf) :
    (bemfCountsWord b).toNat = b.validCnt.toNat + 2 ^ 16 * b.invalidCnt.toNat := by
  rw [bemfCountsWord, append_toNat, Nat.add_comm]

/-- `ARG0` of `TELEMETRY` (rule R453). -/
theorem telemetryWord_toNat (s : State) :
    (telemetryWord s).toNat =
      (modeCode s.ctl.mode).toNat + 2 ^ 4 * s.comm.step.val + 2 ^ 8 * (dirBit s.comm.dir).toNat := by
  simp only [telemetryWord, append_toNat, stepCode_toNat, BitVec.toNat_ofNat]
  omega

/-- Settles O14. -/
theorem snapshotCommandsComplete : Obligations.SnapshotCommandsComplete := by
  intro s
  refine ⟨⟨_, _, ?bemf, bemfSnapshotWord_toNat s.bemf, bemfCountsWord_toNat s.bemf⟩,
    ⟨(bit s.sched.active).setWidth 32, (tagCode s.sched.tag).setWidth 32, ?sched, ?_, ?_⟩,
    ⟨(stepCode s.ramp.step).setWidth 32, (dirBit s.ramp.dir).setWidth 32, (bit s.ramp.active).setWidth 32, ?ramp,
      ?_, ?_, ?_⟩,
    _, ?telemetry, telemetryWord_toNat s⟩
  case bemf | sched | ramp | telemetry => rw [exec]; exact command_completes firstError_nil
  all_goals rw [BitVec.toNat_setWidth_of_le (by decide)]
  · exact BitVec.toNat_ofBool _
  · exact stepCode_toNat _
  · exact BitVec.toNat_ofBool _

end Sys2Proof.Machine
end

section
/-! BEMF processing and the fast tick (file 40_bemf.md): when a sample is processed and what it stores, how a passing
crossing is timed, and the lock counters, which saturate at 0xFFFF, above every threshold. -/

namespace Sys2Proof.Machine

/-! ### The sample buffer (rules R200, R201) -/

/-- Settles O22. -/
theorem adcSampleStores : Obligations.AdcSampleStores := by
  intro ia ib ic va vb vc s
  have hoverrun : (s.adc.overrun || s.adc.isNew) = if s.adc.isNew = true then true else s.adc.overrun := by
    cases s.adc.isNew with
    | false => exact Bool.or_false _
    | true => exact Bool.or_true _
  rw [exec, execAdcSample, hoverrun]

/-! ### Processing one sample (rules R202 to R209) -/

theorem bemfProcess_of_not_ready {s : State} (h : ¬SampleReady s) (fp : CPhase) (t : Word) :
    bemfProcess fp t s = s :=
  if_neg (fun hready => h ((Bool.and_eq_true _ _).mp hready))

theorem noise_iff (s : State) :
    noise s.cfg (getC s.bemf.prev s.comm.float) (bemfOf s s.comm.float) = true ↔ BelowNoise s :=
  Bool.and_eq_true_iff

theorem crossing_iff (s : State) :
    crossing (getC s.bemf.prev s.comm.float) (bemfOf s s.comm.float) = true ↔ SignChange s :=
  bne_iff_ne

/-- The test that `bemf_process` makes of a ready sample. -/
theorem passes_iff {s : State} (h : SampleReady s) :
    (getC s.bemf.prevOk s.comm.float && crossing (getC s.bemf.prev s.comm.float) (bemfOf s s.comm.float) &&
      !noise s.cfg (getC s.bemf.prev s.comm.float) (bemfOf s s.comm.float)) = true ↔ CrossingPasses s := by
  rw [Bool.and_eq_true_iff, Bool.and_eq_true_iff, Bool.not_eq_true', ← Bool.not_eq_true, noise_iff, crossing_iff,
    and_assoc]
  exact (and_iff_right h).symm

theorem bemfProcess_of_no_crossing {s : State} (hready : SampleReady s) (h : ¬CrossingPasses s) (t : Word) :
    bemfProcess s.comm.float t s = sampleStored s := by
  unfold bemfProcess
  rw [if_pos ((Bool.and_eq_true _ _).mpr hready)]
  exact if_neg (mt (passes_iff hready).mp h)

/-- A crossing is timed after its sample is stored. -/
theorem bemfProcess_of_crossing {s : State} (h : CrossingPasses s) (t : Word) :
    bemfProcess s.comm.float t s = zcTiming s.comm.float t (sampleStored s) := by
  have hready : SampleReady s := h.1
  unfold bemfProcess
  rw [if_pos ((Bool.and_eq_true _ _).mpr hready)]
  exact if_pos ((passes_iff hready).mpr h)

/-- Timing a crossing reaches the BEMF elements only. -/
theorem zcTiming_frame (fp : CPhase) (t : Word) (s : State) :
    zcTiming fp t s = { s with bemf := (zcTiming fp t s).bemf } := by
  unfold zcTiming
  split
  · dsimp only
    split <;> rfl
  · rfl

/-- BEMF processing reaches the sample buffer and the BEMF elements only. -/
theorem bemfProcess_frame (fp : CPhase) (t : Word) (s : State) :
    bemfProcess fp t s = { s with adc := (bemfProcess fp t s).adc, bemf := (bemfProcess fp t s).bemf } := by
  unfold bemfProcess
  split
  · dsimp only
    split
    · rw [zcTiming_frame]
      rfl
    · rfl
  · rfl

/-! ### The fast tick -/

/-- In Stopped the state machine does nothing and keeps the flag (rule R341). -/
theorem smFast_of_stopped {s : State} (h : s.ctl.mode = .stopped) (t : Word) : smFast t s = s := by
  unfold smFast
  rw [h]
  exact ite_self s

theorem stallCheck_of_not_closedLoop {s : State} (h : s.ctl.mode ≠ .closedLoop) (t : Word) : stallCheck t s = s :=
  if_neg fun hstall => h hstall.1

/-- In Stopped BEMF processing is all that a fast tick does (rule R340). -/
theorem fastTick_of_stopped {s : State} (h : s.ctl.mode = .stopped) :
    exec .fastTick s = .next (bemfProcess s.comm.float s.env.time s) := by
  have hmode : (bemfProcess s.comm.float s.env.time s).ctl.mode = .stopped := by rw [bemfProcess_frame]; exact h
  have hloop : (bemfProcess s.comm.float s.env.time s).ctl.mode ≠ .closedLoop := by rw [hmode]; decide
  rw [exec, execFastTick, smFast_of_stopped hmode, stallCheck_of_not_closedLoop hloop]

/-- Settles O23. -/
theorem fastTickProcessesSample : Obligations.FastTickProcessesSample := by
  refine fun s => ⟨fun hready => ?_, fun hready hcrossing => ?_⟩
  · have hprocess := bemfProcess_of_not_ready hready s.comm.float s.env.time
    exact ⟨hprocess, fun hmode => by rw [fastTick_of_stopped hmode, hprocess]⟩
  · have hprocess := bemfProcess_of_no_crossing hready hcrossing s.env.time
    exact ⟨hprocess, fun hmode => by rw [fastTick_of_stopped hmode, hprocess]⟩

/-! ### Timing a crossing (rules R209 to R215) -/

theorem inc16_eq (c : Half) : inc16 c = BitVec.ofNat 16 (min (c.toNat + 1) 0xFFFF) := by
  rw [← inc16_toNat, BitVec.ofNat_toNat, BitVec.setWidth_eq]

theorem periodReject_eq (t : Word) (s : State) : periodReject t s = crossingRejected t s := by
  simp only [periodReject, crossingRejected, inc16_eq, BitVec.le_def]

/-- An acceptance on the committed floating phase, its timestamp recorded first. -/
theorem periodAccept_eq (t e : Word) (s : State) :
    periodAccept s.comm.float e (recordCrossing t s) = crossingAccepted t e s := by
  simp only [periodAccept, crossingAccepted, inc16_eq, BitVec.le_def]
  rfl

theorem outOfBounds_iff (c : Cfg) (e : Word) :
    (e < c.bemfPeriodMinUs ∨ c.bemfPeriodMaxUs < e) ↔ OutOfBounds c e :=
  Iff.rfl

theorem zcTiming_of_no_baseline {s : State} (h : s.bemf.baselineDone = false) (fp : CPhase) (t : Word) :
    zcTiming fp t s = baselineTaken t s := by
  unfold zcTiming
  rw [h]
  rfl

theorem zcTiming_of_outOfBounds {t : Word} {s : State} (hbase : s.bemf.baselineDone = true)
    (h : OutOfBounds s.cfg (t - s.bemf.lastZc)) (fp : CPhase) : zcTiming fp t s = crossingRejected t s := by
  unfold zcTiming
  rw [if_pos hbase, if_pos ((outOfBounds_iff _ _).mpr h), periodReject_eq]

theorem zcTiming_of_inBounds {t : Word} {s : State} (hbase : s.bemf.baselineDone = true)
    (h : ¬OutOfBounds s.cfg (t - s.bemf.lastZc)) :
    zcTiming s.comm.float t s = crossingAccepted t (t - s.bemf.lastZc) s := by
  unfold zcTiming
  rw [if_pos hbase, if_neg (mt (outOfBounds_iff _ _).mp h), periodAccept_eq]

/-- Settles O24: storing the sample keeps the baseline, the last timestamp and the bounds that the timing reads. -/
theorem fastTickTimesCrossing : Obligations.FastTickTimesCrossing := by
  intro s hcrossing
  refine ⟨_, bemfProcess_of_crossing hcrossing _, fun hmode => ?_, fun hbase => ?_, fun hbase hbounds => ?_,
    fun hbase hbounds => ?_⟩
  · rw [fastTick_of_stopped hmode, bemfProcess_of_crossing hcrossing]
  · exact zcTiming_of_no_baseline (s := sampleStored s) hbase _ _
  · exact zcTiming_of_outOfBounds (s := sampleStored s) hbase hbounds _
  · exact zcTiming_of_inBounds (s := sampleStored s) hbase hbounds

/-! ### The lock counters (rules R211, R212, R214, R224) -/

/-- A saturating counter that latches once it reaches its threshold: after a list of events it is latched exactly if it
was before, or if the events have brought the count to the threshold. -/
theorem latched_foldl_iff {α : Type} {f : State → α → State} {count threshold : State → Half}
    {latched : State → Prop} (hthreshold : ∀ s a, threshold (f s a) = threshold s)
    (hcount : ∀ s a, count (f s a) = inc16 (count s))
    (hlatched : ∀ s a, latched (f s a) ↔ threshold s ≤ inc16 (count s) ∨ latched s) (l : List α) (s : State) :
    latched (l.foldl f s) ↔ latched s ∨ (0 < l.length ∧ (threshold s).toNat ≤ (count s).toNat + l.length) := by
  induction l generalizing s with
  | nil => simp
  | cons a l ih =>
    have hmax := (threshold s).isLt
    rw [List.foldl_cons, ih, hlatched, hthreshold, hcount, BitVec.le_def, inc16_toNat, List.length_cons, or_right_comm,
      or_comm]
    exact or_congr_right (by omega)

theorem valid_periodAccept_iff (s : State) (fp : CPhase) (e : Word) :
    (periodAccept fp e s).bemf.valid = true ↔ s.cfg.bemfLockN ≤ inc16 s.bemf.validCnt ∨ s.bemf.valid = true := by
  simp only [periodAccept]
  split <;> simp [*]

theorem valid_periodReject_iff (s : State) (t : Word) :
    (periodReject t s).bemf.valid = false ↔
      s.cfg.bemfUnlockM ≤ inc16 s.bemf.invalidCnt ∨ s.bemf.valid = false := by
  simp only [periodReject]
  split <;> simp [*]

theorem valid_foldl_periodAccept_iff (l : List (CPhase × Word)) (s : State) :
    (l.foldl (fun u a => periodAccept a.1 a.2 u) s).bemf.valid = true ↔
      s.bemf.valid = true ∨ (0 < l.length ∧ s.cfg.bemfLockN.toNat ≤ s.bemf.validCnt.toNat + l.length) :=
  latched_foldl_iff (f := fun u (a : CPhase × Word) => periodAccept a.1 a.2 u) (count := (·.bemf.validCnt))
    (threshold := (·.cfg.bemfLockN)) (latched := (·.bemf.valid = true)) (fun _ _ => rfl) (fun _ _ => rfl)
    (fun u a => valid_periodAccept_iff u a.1 a.2) l s

theorem valid_foldl_periodReject_iff (l : List Word) (s : State) :
    (l.foldl (fun u t => periodReject t u) s).bemf.valid = false ↔
      s.bemf.valid = false ∨ (0 < l.length ∧ s.cfg.bemfUnlockM.toNat ≤ s.bemf.invalidCnt.toNat + l.length) :=
  latched_foldl_iff (f := fun u t => periodReject t u) (count := (·.bemf.invalidCnt))
    (threshold := (·.cfg.bemfUnlockM)) (latched := (·.bemf.valid = false)) (fun _ _ => rfl) (fun _ _ => rfl)
    valid_periodReject_iff l s

/-! ### What the state machine leaves of the BEMF elements -/

theorem stallCheck_bemf (t : Word) (s : State) : (stallCheck t s).bemf = s.bemf := by
  unfold stallCheck
  split
  · exact safetyStop_bemf s _
  · rfl

theorem handoverPlan_bemf (t : Word) (s : State) : (handoverPlan t s).bemf = s.bemf := by
  unfold handoverPlan
  dsimp only
  split <;> simp

theorem handoverEval_bemf (t : Word) (s : State) : (handoverEval t s).bemf = s.bemf := by
  unfold handoverEval
  dsimp only
  split
  · split
    · rfl
    · exact handoverPlan_bemf t _
  · rfl

theorem clZc_bemf (t : Word) (s : State) : (clZc t s).bemf = s.bemf := by
  unfold clZc
  split <;> rfl

/-- The state machine consumes the flag at most (rule R341). -/
theorem smFast_bemf (t : Word) (s : State) :
    (smFast t s).bemf = { s.bemf with zcFlag := (smFast t s).bemf.zcFlag } := by
  unfold smFast
  split
  · split
    · rfl
    · dsimp only
      split
      · rw [handoverEval_bemf]
        rfl
      · rfl
    · rw [clZc_bemf]
      rfl
  · rfl

/-- After BEMF processing a fast tick writes the flag at most. -/
theorem fastTick_bemf {s t : State} (h : exec .fastTick s = .next t) :
    t.bemf = { (bemfProcess s.comm.float s.env.time s).bemf with zcFlag := t.bemf.zcFlag } := by
  cases h
  rw [stallCheck_bemf]
  exact smFast_bemf _ _

/-- Without a passing crossing BEMF processing stores at most the sample (rule R206). -/
theorem bemfProcess_bemf_of_no_crossing {s : State} (h : ¬CrossingPasses s) (t : Word) :
    ∃ prev prevOk, (bemfProcess s.comm.float t s).bemf = { s.bemf with prev := prev, prevOk := prevOk } := by
  by_cases hready : SampleReady s
  · rw [bemfProcess_of_no_crossing hready h]
    exact ⟨_, _, rfl⟩
  · rw [bemfProcess_of_not_ready hready]
    exact ⟨_, _, rfl⟩

/-- Settles O53: the bit is the latch of a saturating counter. -/
theorem lockExactlyAtThreshold : Obligations.LockExactlyAtThreshold := by
  refine ⟨fun s l hmin hvalid hcount => ?_, fun s l hmin hvalid hcount => ?_, fun s t hcrossing h => ?_⟩
  · have hzero : s.bemf.validCnt.toNat = 0 := congrArg BitVec.toNat hcount
    rw [valid_foldl_periodAccept_iff, hvalid, hzero, or_iff_right Bool.false_ne_true]
    omega
  · have hzero : s.bemf.invalidCnt.toNat = 0 := congrArg BitVec.toNat hcount
    rw [valid_foldl_periodReject_iff, hvalid, hzero, or_iff_right Bool.false_ne_true.symm]
    omega
  · obtain ⟨prev, prevOk, hprocess⟩ := bemfProcess_bemf_of_no_crossing hcrossing s.env.time
    have hbemf := fastTick_bemf h
    rw [hprocess] at hbemf
    rw [hbemf]
    exact ⟨rfl, rfl, rfl⟩

end Sys2Proof.Machine
end

section
/-! The scheduler (file 41_scheduler.md): the two commands that write the slot in Stopped, and the expiries that run no
callback of another unit. -/

namespace Sys2Proof.Machine

/-! ### The commands on the slot (rules R255, R256) -/

/-- In Stopped the checks of `SCHED_START` pass for a delay in range. -/
theorem firstError_schedStart {s : State} (hmode : s.ctl.mode = .stopped) (hdelay : s.iface.arg0.toNat ≤ 0x7FFFFFFF) :
    firstError [busyUnlessStopped s, badArgIf (decide (0x7FFFFFFF < s.iface.arg0))] = .ok := by
  have hrange : ¬0x7FFFFFFF < s.iface.arg0 := BitVec.not_lt.mpr hdelay
  rw [(busyUnlessStopped_eq_ok s).mpr hmode, firstError_ok_cons, (badArgIf_eq_ok _).mpr (decide_eq_false hrange)]
  rfl

/-- Settles O16: each command's checks pass, and its effect is the slot procedure of rule R250 or R251. -/
theorem schedulerCommandsComplete : Obligations.SchedulerCommandsComplete := by
  refine fun s hmode => ⟨fun hdelay => ?start, ?cancel⟩ <;> rw [exec]
  case start => exact command_completes (firstError_schedStart hmode hdelay)
  case cancel => exact command_completes (firstError_busyUnlessStopped hmode)

/-! ### The expiry (rules R252, R253) -/

/-- The expiry of a pending event empties the slot and dispatches its tag at the deadline. -/
theorem exec_timerExpire_of_pending {s : State} (hactive : s.sched.active = true) (htag : s.sched.tag ≠ .none) :
    exec .timerExpire s = .next (dispatch s.sched.tag s.sched.deadline (schedCancel s)) := by
  rw [exec, execTimerExpire, if_pos hactive, if_neg htag]

/-- A callback whose guard is false is skipped. -/
theorem dispatch_of_not_guardHolds {tag : Tag} {s : State} (h : ¬guardHolds tag s) (t : Word) :
    dispatch tag t s = s := by
  rcases dispatch_cases tag t s with
    ⟨_, hg, _⟩ | ⟨_, hg, _⟩ | ⟨_, hg, _⟩ | ⟨_, hg, _⟩ | ⟨rfl, _⟩ | ⟨_, hskip⟩
  case inr.inr.inr.inr.inl => exact absurd trivial h
  case inr.inr.inr.inr.inr => exact hskip
  all_goals exact absurd hg h

/-- Emptying the slot leaves every guard as it is. -/
theorem guardHolds_schedCancel (tag : Tag) (s : State) : guardHolds tag (schedCancel s) ↔ guardHolds tag s := by
  cases tag <;> rfl

/-- An expiry whose guard is false only empties the slot. -/
theorem exec_timerExpire_of_not_guardHolds {s : State} (hactive : s.sched.active = true) (htag : s.sched.tag ≠ .none)
    (h : ¬guardHolds s.sched.tag s) : exec .timerExpire s = .next (schedCancel s) := by
  rw [exec_timerExpire_of_pending hactive htag,
    dispatch_of_not_guardHolds (mt (guardHolds_schedCancel _ s).mp h)]

/-- Settles O29: the user tag has no guard and counts, each other tag's guard is the one of rule R253, and without a
tagged event the expiry stops. -/
theorem timerExpirySkipsAndCounts : Obligations.TimerExpirySkipsAndCounts := by
  refine fun s => ⟨fun hactive htag => ?counted, fun hactive hskip => ?skipped, fun hempty => ?empty,
    fun hactive htag => ?untagged⟩
  case counted =>
    rw [exec_timerExpire_of_pending hactive (by simp [htag]), htag]
    rfl
  case skipped =>
    obtain ⟨htag, hguard⟩ : s.sched.tag ≠ .none ∧ ¬guardHolds s.sched.tag s := by
      rcases hskip with ⟨htag, hg⟩ | ⟨htag, hg⟩ | ⟨htag, hg⟩ | ⟨htag, hg⟩ <;> rw [htag]
      case inr.inl => exact ⟨nofun, ne_true_of_eq_false hg⟩
      all_goals exact ⟨nofun, hg⟩
    exact exec_timerExpire_of_not_guardHolds hactive htag hguard
  case empty => rw [exec, execTimerExpire, if_neg (ne_true_of_eq_false hempty)]
  case untagged => rw [exec, execTimerExpire, if_pos hactive, if_pos htag]

end Sys2Proof.Machine
end

section
/-! The Linear profile's ends (rule R286): a product with 1, a sum with 0 and a product with 0 are exact, because a
finite datum is the only binary32 result of its own value. -/

namespace Sys2Proof.Machine

/-! ### A finite datum is its own binary32 result -/

/-- A finite datum lies at least half a last place below the bound from which rounding overflows. -/
theorem magnitudeValue_lt_overflow {x : F32} (h : x.isFinite = true) : magnitudeValue x < 2 ^ 128 - 2 ^ 103 := by
  have hmag : x.magnitude < 0x7F800000 := of_decide_eq_true h
  have hmax : patternValue 0x7F7FFFFF = 2 ^ 128 - 2 ^ 104 := by norm_num [patternValue]
  calc magnitudeValue x = patternValue x.magnitude := magnitudeValue_pattern x
    _ ≤ patternValue 0x7F7FFFFF := patternValue_strictMono.monotone (Nat.le_of_lt_succ hmag)
    _ < 2 ^ 128 - 2 ^ 103 := by rw [hmax]; norm_num

theorem eq_of_sign_of_magnitudeValue {x y : F32} (hsign : x.sign = y.sign)
    (hvalue : magnitudeValue x = magnitudeValue y) : x = y := by
  rw [magnitudeValue_pattern, magnitudeValue_pattern, patternValue_strictMono.injective.eq_iff] at hvalue
  rw [← F32.pack_sign_magnitude x, ← F32.pack_sign_magnitude y, hsign, hvalue]

/-- Rounding a representable value gives the datum that has it: no other datum is as near. -/
theorem IsRounding.eq_of_representable {x r : F32} (hx : x.isFinite = true)
    (h : IsRounding (magnitudeValue x) x.sign r) : r = x := by
  obtain ⟨hsign, hr⟩ := h
  rw [if_pos (magnitudeValue_lt_overflow hx)] at hr
  obtain ⟨_, hnearest⟩ := hr
  refine eq_of_sign_of_magnitudeValue hsign ?_
  by_contra hne
  have hzero : |magnitudeValue x - magnitudeValue x| = 0 := by rw [sub_self, abs_zero]
  have hpos : 0 < |magnitudeValue r - magnitudeValue x| := abs_pos.mpr (sub_ne_zero.mpr hne)
  rcases hnearest x hx (Ne.symm hne) with hlt | ⟨heq, _⟩ <;> linarith

/-! ### Exact operations -/

theorem signedValue_one : signedValue F32.one = 1 := by
  rw [signedValue, if_neg (by decide), magnitudeValue_eq, show F32.one.mant = 2 ^ 23 from rfl,
    show F32.one.ex = 126 from rfl]
  norm_num

theorem signedValue_zero : signedValue ⟨0⟩ = 0 := (signedValue_eq_zero_iff _).mpr rfl

theorem one_isFinite : F32.one.isFinite = true := by decide

theorem zero_isFinite : (⟨0⟩ : F32).isFinite = true := by decide

theorem sign_eq_decide_signedValue {x : F32} (hx : signedValue x ≠ 0) : decide (signedValue x < 0) = x.sign := by
  have hpos : 0 < magnitudeValue x := by rw [← signedValue_abs]; exact abs_pos.mpr hx
  unfold signedValue
  cases x.sign with
  | false => simpa using hpos.le
  | true => simpa using hpos

section
variable {a b x : F32} (ha : a.isFinite = true) (hb : b.isFinite = true) (hx : x.isFinite = true)
include ha hb hx

/-- A product that a datum represents is that datum. -/
theorem mul_eq_of_representable (hsign : xor a.sign b.sign = x.sign)
    (hvalue : signedValue a * signedValue b = signedValue x) : F32.mul a b = x := by
  have h := isRounding_mul ha hb
  rw [hvalue, signedValue_abs, hsign] at h
  exact h.eq_of_representable hx

/-- A sum other than 0 that a datum represents is that datum. -/
theorem add_eq_of_representable (hne : signedValue x ≠ 0)
    (hvalue : signedValue a + signedValue b = signedValue x) : F32.add a b = x := by
  have h := isRounding_add ha hb (by rwa [hvalue])
  rw [hvalue, signedValue_abs, sign_eq_decide_signedValue hne] at h
  exact h.eq_of_representable hx

/-- A difference other than 0 that a datum represents is that datum. -/
theorem sub_eq_of_representable (hne : signedValue x ≠ 0)
    (hvalue : signedValue a - signedValue b = signedValue x) : F32.sub a b = x :=
  add_eq_of_representable ha (F32.neg_isFinite hb) hx hne (by rw [← signedValue_sub a hb, hvalue])

end

theorem one_mul_datum {x : F32} (hx : x.isFinite = true) : F32.mul F32.one x = x :=
  mul_eq_of_representable one_isFinite hx hx (Bool.false_xor _) (by rw [signedValue_one, one_mul])

theorem zero_mul_datum {x : F32} (hx : x.isFinite = true) (hsign : x.sign = false) : F32.mul ⟨0⟩ x = ⟨0⟩ :=
  mul_eq_of_representable zero_isFinite hx zero_isFinite (by rw [hsign]; rfl) (by rw [signedValue_zero, zero_mul])

theorem add_zero_datum {x : F32} (hx : x.isFinite = true) (hne : signedValue x ≠ 0) : F32.add x ⟨0⟩ = x :=
  add_eq_of_representable hx zero_isFinite hx hne (by rw [signedValue_zero, add_zero])

theorem zero_add_datum {x : F32} (hx : x.isFinite = true) (hne : signedValue x ≠ 0) : F32.add ⟨0⟩ x = x :=
  add_eq_of_representable zero_isFinite hx hx hne (by rw [signedValue_zero, zero_add])

theorem sub_zero_datum {x : F32} (hx : x.isFinite = true) (hne : signedValue x ≠ 0) : F32.sub x ⟨0⟩ = x :=
  sub_eq_of_representable hx zero_isFinite hx hne (by rw [signedValue_zero, sub_zero])

theorem sub_self_datum {x : F32} (hx : x.isFinite = true) : F32.sub x x = ⟨0⟩ := by
  rw [sub_eq_zero_datum hx hx (sub_self _), if_neg (by simp)]

/-- A positive datum has a clear sign and is no zero. -/
theorem sign_of_gt_zero {x : F32} (hx : x.isFinite = true) (h : F32.gt x ⟨0⟩ = true) :
    x.sign = false ∧ signedValue x ≠ 0 := by
  have hpos : 0 < signedValue x := by
    rw [← signedValue_zero]
    exact (lt_iff_signedValue zero_isFinite hx).mp h
  refine ⟨?_, hpos.ne'⟩
  rw [← sign_eq_decide_signedValue hpos.ne', decide_eq_false_iff_not]
  exact hpos.le.not_gt

/-! ### The Linear profile -/

theorem freqOf_linear {c : RampCtx} (h : c.prof = 0) (r : F32) : freqOf c r = freqLinear c r := by
  rw [freqOf, h]
  rfl

/-- Settles O57: one weight is 1 and the other 0, so one product is the frequency and the other adds nothing. -/
theorem linearProfileIsExact : Obligations.LinearProfileIsExact := by
  intro c hprof hfs hfsPos hfe hfePos
  obtain ⟨hfsSign, hfsNe⟩ := sign_of_gt_zero hfs hfsPos
  obtain ⟨hfeSign, hfeNe⟩ := sign_of_gt_zero hfe hfePos
  have hone : signedValue F32.one ≠ 0 := by rw [signedValue_one]; exact one_ne_zero
  constructor <;> rw [freqOf_linear hprof, freqLinear]
  · rw [sub_zero_datum one_isFinite hone, one_mul_datum hfs, zero_mul_datum hfe hfeSign, add_zero_datum hfs hfsNe]
  · rw [sub_self_datum one_isFinite, zero_mul_datum hfs hfsSign, one_mul_datum hfe, zero_add_datum hfe hfeNe]

end Sys2Proof.Machine
end

section
/-! The ramp engine (file 42_ramp.md): a commutation, a ramp's start and its steps as the one record update that each
is, the commands, and the expiry that steps a ramp. -/

namespace Sys2Proof.Machine

/-! ### A commutation (rules R331 to R333) -/

/-- The three roles of a pattern are three different phases. -/
theorem pattern_roles_distinct (k : StepIx) (d : Dir) :
    highOf k d ≠ lowOf k d ∧ highOf k d ≠ floatOf k d ∧ lowOf k d ≠ floatOf k d := by
  cases d <;> revert k <;> decide

/-- Every control phase has a role. -/
theorem pattern_roles_cover (k : StepIx) (d : Dir) (p : CPhase) :
    p = highOf k d ∨ p = lowOf k d ∨ p = floatOf k d := by
  cases d <;> cases p <;> revert k <;> decide

/-- `P_PHASE_MAP` is onto (rule R8). -/
theorem mapPhase_surjective (m : PhaseMap) (h : HPhase) : ∃ p, mapPhase m p = h := by
  have hlist : ∃ p ∈ [CPhase.a, .b, .c], mapPhase m p = h := by cases m <;> cases h <;> decide
  exact hlist.imp fun _ hp => hp.2

theorem getH_drivePattern (m : PhaseMap) (k : StepIx) (d : Dir) (ph : Tri OutState) (h : HPhase) :
    getH (drivePattern m k d ph) h = patternOutput m k d h := by
  obtain ⟨hhl, hhf, hlf⟩ := pattern_roles_distinct k d
  obtain ⟨p, rfl⟩ := mapPhase_surjective m h
  have hne {p q : CPhase} (hpq : p ≠ q) : mapPhase m p ≠ mapPhase m q := mt (mapPhase_injective m p q) hpq
  unfold drivePattern patternOutput
  rcases pattern_roles_cover k d p with rfl | rfl | rfl
  · rw [getH_setH_of_ne _ _ (hne hhf), getH_setH_of_ne _ _ (hne hhl), getH_setH_same, if_pos rfl]
  · rw [getH_setH_of_ne _ _ (hne hlf), getH_setH_same, if_neg (hne hhl), if_pos rfl]
  · rw [getH_setH_same, if_neg (hne hhf), if_neg (hne hlf)]

/-- A commutation drives every hardware phase, whatever the outputs were. -/
theorem drivePattern_eq (m : PhaseMap) (k : StepIx) (d : Dir) (ph : Tri OutState) :
    drivePattern m k d ph = ⟨patternOutput m k d .a, patternOutput m k d .b, patternOutput m k d .c⟩ := by
  simp only [← getH_drivePattern m k d ph]
  rfl

theorem applyCommutation_eq (k : StepIx) (duty : F32) (d : Dir) (t : Word) (s : State) :
    applyCommutation k duty d t s =
      { s with inv := committedInv s.inst.phaseMap k duty d, comm := committedComm k duty d t s.comm } := by
  rw [applyCommutation, drivePattern_eq]
  rfl

/-! ### The ramp commands (rules R296 to R298) -/

theorem rampStart_eq (t : Word) (owner : Owner) (dir : Dir) (s : State) :
    rampStart t owner dir s = rampStarted t owner dir s := by
  simp only [rampStart, applyCommutation_eq]
  rfl

/-- In Stopped without a latched fault the checks of `RAMP_START` pass. -/
theorem firstError_rampStart {s : State} (hmode : s.ctl.mode = .stopped) (hfault : s.ctl.faultLatched = false) :
    firstError [busyUnlessStopped s, faultIfLatched s] = .ok := by
  rw [(busyUnlessStopped_eq_ok s).mpr hmode, (faultIfLatched_eq_ok s).mpr hfault]
  rfl

/-- Settles O17. -/
theorem rampCommandsComplete : Obligations.RampCommandsComplete := by
  refine fun s hmode => ⟨fun hfault d => ?start, ?stop, ?stopSoft⟩ <;> rw [exec]
  case start =>
    rw [← rampStart_eq]
    exact command_completes (firstError_rampStart hmode hfault)
  case stop | stopSoft => exact command_completes (firstError_busyUnlessStopped hmode)

/-! ### A ramp step (rules R282 to R291, R354) -/

theorem satadd32_eq (a b : Word) : satadd32 a b = BitVec.ofNat 32 (min (a.toNat + b.toNat) 0xFFFFFFFF) := by
  rw [← satadd32_toNat, BitVec.ofNat_toNat, BitVec.setWidth_eq]

/-- The safety stop as one update (rule R356). -/
theorem safetyStop_eq (cause : StopCause) (s : State) : safetyStop cause s = stoppedBy cause s := rfl

theorem rampFinish_of_host {s : State} (h : s.ramp.owner = .host) :
    rampFinish s = countRamp (inverterDisable (deactivateRamp s)) := by
  simp [rampFinish, h]

theorem rampFinish_of_stateMachine {s : State} (h : s.ramp.owner = .stateMachine) :
    rampFinish s = stoppedBy .rampEnd (countRamp (inverterDisable (deactivateRamp s))) := by
  simp [rampFinish, h, rampCompleteSm, safetyStop_eq]

theorem rampStep_of_total_le {s : State} (h : rampTotal s.ramp.ctx ≤ (addElapsed s).ramp.elapsed.toNat) (t : Word) :
    rampStep t s = rampFinish (addElapsed s) := if_pos h

theorem rampStep_of_lt_total {s : State} (h : (addElapsed s).ramp.elapsed.toNat < rampTotal s.ramp.ctx) (t : Word) :
    rampStep t s =
      advance t (freqOf s.ramp.ctx (rampRatio (addElapsed s).ramp)) (dutyOf s.ramp.ctx (rampRatio (addElapsed s).ramp))
        (addElapsed s) := if_neg h.not_ge

/-- The profile's frequency, by the number of the profile (rules R286 to R289). -/
theorem freqOf_eq (c : RampCtx) (r : F32) :
    freqOf c r =
      if c.prof = 0 then freqLinear c r
      else if c.prof = 1 then freqExponential c r
      else if c.prof = 2 then freqQuadratic c r
      else freqLogarithmic c r := by
  have hprof : ∀ p : BitVec 2, p = 0 ∨ p = 1 ∨ p = 2 ∨ p = 3 := by decide
  rcases hprof c.prof with h | h | h | h <;> rw [freqOf, h] <;> rfl

theorem advance_eq (t : Word) (f d : F32) (s : State) :
    advance t f d s = { s with
      sched := { s.sched with active := true, deadline := t + rampDelay s.cfg f, tag := .rampStep }
      ramp := { s.ramp with freq := f, duty := d, step := s.ramp.step + 1, lastDelay := rampDelay s.cfg f }
      comm := committedComm (s.ramp.step + 1) d s.ramp.dir t s.comm
      inv := committedInv s.inst.phaseMap (s.ramp.step + 1) d s.ramp.dir } := by
  simp only [advance, applyCommutation_eq]
  rfl

/-- The expiry of a ramp step with an active ramp runs it from the emptied slot. -/
theorem exec_timerExpire_rampStep {s : State} (hsched : s.sched.active = true) (htag : s.sched.tag = .rampStep)
    (hramp : s.ramp.active = true) :
    exec .timerExpire s = .next (rampStep s.sched.deadline (schedCancel s)) := by
  rw [exec_timerExpire_of_pending hsched (by simp [htag]), htag]
  exact congrArg _ (if_pos hramp)

/-- Settles O31. -/
theorem timerStepsRamp : Obligations.TimerStepsRamp := by
  intro s hsched htag hramp
  rw [← satadd32_eq, exec_timerExpire_rampStep hsched htag hramp]
  intro elapsed total finished c r f d t k
  refine ⟨fun hdone howner => ?host, fun hdone howner => ?stateMachine, fun hrun => ?advance⟩
  case host =>
    rw [rampStep_of_total_le (s := schedCancel s) hdone, rampFinish_of_host (s := addElapsed (schedCancel s)) howner]
    rfl
  case stateMachine =>
    rw [rampStep_of_total_le (s := schedCancel s) hdone,
      rampFinish_of_stateMachine (s := addElapsed (schedCancel s)) howner]
    rfl
  case advance =>
    rw [rampStep_of_lt_total (s := schedCancel s) hrun, advance_eq, freqOf_eq]
    rfl

end Sys2Proof.Machine
end

section
/-! No ramp is active in ClosedLoop (rules R293, R344, R349): a ramp starts in Stopped or OpenLoop only, and the
handover, the only way into ClosedLoop, stops it. -/

namespace Sys2Proof.Machine

/-- The first check of a command that runs has passed. -/
theorem firstError_cons_eq_ok {c : CmdErr} {l : List CmdErr} (h : firstError (c :: l) = .ok) : c = .ok := by
  by_contra hne
  exact hne ((firstError_cons_of_ne c l hne).symm.trans h)

theorem loopRampIdle_of_idle {s : State} (h : s.ramp.active = false) : LoopRampIdle s := fun _ => h

theorem loopRampIdle_of_mode_ne {s : State} (h : s.ctl.mode ≠ .closedLoop) : LoopRampIdle s :=
  fun hmode => absurd hmode h

namespace LoopRampIdle

variable {s : State}

/-- The invariant reads `MODE` and `RAMP_ACTIVE` only. -/
theorem congr (h : LoopRampIdle s) {t : State} (hmode : t.ctl.mode = s.ctl.mode)
    (hactive : t.ramp.active = s.ramp.active) : LoopRampIdle t := by
  unfold LoopRampIdle at *
  rwa [hmode, hactive]

theorem mode_ne (h : LoopRampIdle s) (hactive : s.ramp.active = true) : s.ctl.mode ≠ .closedLoop := fun hmode => by
  rw [h hmode] at hactive
  cases hactive

/-! ### The commands -/

/-- A command keeps the invariant when its effect does, once its checks have passed. -/
theorem command (hs : LoopRampIdle s) {opc : BitVec 8} {checks : List CmdErr} {effect : State → State} {t : State}
    (h : command opc checks effect s = .next t) (heffect : firstError checks = .ok → LoopRampIdle (effect s)) :
    LoopRampIdle t := by
  rcases command_cases h with ⟨hok, ho⟩ | ⟨_, ho⟩ <;> cases ho
  · exact (heffect hok).congr rfl rfl
  · exact hs.congr rfl rfl

theorem setSpeed (hs : LoopRampIdle s) (t : Word) (x : F32) : LoopRampIdle (setSpeed t x s) := by
  unfold Machine.setSpeed
  dsimp only
  split
  · split
    · exact hs.congr rfl rfl
    · exact loopRampIdle_of_mode_ne (by simp [beginRun])
  all_goals
    split
    · exact hs.congr rfl rfl
    · split <;> exact hs.congr rfl rfl

/-- Every command keeps the invariant: `RAMP_START` runs in Stopped only. -/
theorem exec_command (hs : LoopRampIdle s) {i : Instr} {t : State} (hi : i.isCommand = true)
    (h : exec i s = .next t) : LoopRampIdle t := by
  cases i with
  | rampStart d =>
    rw [exec] at h
    refine hs.command h fun hok => loopRampIdle_of_mode_ne ?_
    have hmode : s.ctl.mode = .stopped := (busyUnlessStopped_eq_ok s).mp (firstError_cons_eq_ok hok)
    simp [hmode]
  | rampStop =>
    rw [exec] at h
    exact hs.command h fun _ => loopRampIdle_of_idle (by simp)
  | rampStopSoft =>
    rw [exec] at h
    exact hs.command h fun _ => loopRampIdle_of_idle (by simp)
  | setSpeed =>
    rw [exec] at h
    exact hs.command h fun _ => hs.setSpeed _ _
  | motorStop =>
    rw [exec] at h
    exact hs.command h fun _ => loopRampIdle_of_idle (by simp)
  | invCommutate d step =>
    rw [exec, execInvCommutate] at h
    split at h
    · cases h; exact hs.congr rfl rfl
    · exact hs.command h fun _ => hs.congr rfl rfl
  | invSetPhase phase st =>
    rw [exec, execInvSetPhase] at h
    split at h
    · exact hs.command h fun _ => hs.congr rfl rfl
    all_goals cases h; exact hs.congr rfl rfl
  | nop | bemfInit | bemfReset | bemfClearFlag | bemfGetStatus | schedStart | schedCancel | schedIsActive | rampGetState
  | invDisable | setSlope | faultClear | pidReset | telemetry | clearSticky =>
    rw [exec] at h
    exact hs.command h fun _ => hs.congr rfl rfl
  | _ => cases hi

/-! ### The ticks -/

theorem bemfProcess (hs : LoopRampIdle s) (fp : CPhase) (t : Word) : LoopRampIdle (bemfProcess fp t s) := by
  rw [bemfProcess_frame]
  exact hs.congr rfl rfl

theorem handoverPlan (hs : LoopRampIdle s) (t : Word) : LoopRampIdle (handoverPlan t s) := by
  unfold Machine.handoverPlan
  dsimp only
  split
  · exact loopRampIdle_of_idle (by simp)
  · exact hs.congr rfl rfl

theorem handoverEval (hs : LoopRampIdle s) (t : Word) : LoopRampIdle (handoverEval t s) := by
  have hstreak (n : Half) : LoopRampIdle (setStreak n s) := hs.congr rfl rfl
  unfold Machine.handoverEval
  dsimp only
  split
  · split
    · exact hstreak _
    · exact (hstreak _).handoverPlan t
  · exact hstreak _

theorem clZc (hs : LoopRampIdle s) (t : Word) : LoopRampIdle (clZc t s) := by
  unfold Machine.clZc
  split
  · exact hs.congr rfl rfl
  · exact hs

theorem smFast (hs : LoopRampIdle s) (t : Word) : LoopRampIdle (smFast t s) := by
  have hflag : LoopRampIdle (clearZcFlag s) := hs.congr rfl rfl
  unfold Machine.smFast
  split
  · split
    · exact hs
    · dsimp only
      split
      · exact hflag.handoverEval t
      · exact hflag
    · exact hflag.clZc t
  · exact hs

theorem stallCheck (hs : LoopRampIdle s) (t : Word) : LoopRampIdle (stallCheck t s) := by
  unfold Machine.stallCheck
  split
  · exact loopRampIdle_of_idle (by simp)
  · exact hs

theorem measureSpeed (hs : LoopRampIdle s) : LoopRampIdle (measureSpeed s) := by
  unfold Machine.measureSpeed
  split
  · exact hs.congr rfl rfl
  · exact hs

theorem regulate (hs : LoopRampIdle s) : LoopRampIdle (regulate s) := by
  unfold Machine.regulate
  split
  · exact hs.congr rfl rfl
  · exact hs

theorem execLowTick (hs : LoopRampIdle s) {t : State} (h : execLowTick s = .next t) : LoopRampIdle t := by
  have htarget : LoopRampIdle (rampTarget (Machine.measureSpeed s)) := hs.measureSpeed.congr rfl rfl
  unfold Machine.execLowTick at h
  cases h
  split
  · exact loopRampIdle_of_mode_ne (by simp)
  · exact htarget.regulate

/-! ### The expiry -/

/-- An active ramp is not in ClosedLoop, and a step of it stays in its mode or stops it. -/
theorem rampStep (hs : LoopRampIdle s) (hactive : s.ramp.active = true) (t : Word) : LoopRampIdle (rampStep t s) := by
  rcases rampStep_cases t s with ⟨f, d, h⟩ | ⟨_, h⟩ | ⟨_, h⟩ <;> rw [h]
  · exact loopRampIdle_of_mode_ne (by simpa using hs.mode_ne hactive)
  · exact loopRampIdle_of_idle (by simp)
  · exact loopRampIdle_of_idle (by simp)

theorem dispatch (hs : LoopRampIdle s) (tag : Tag) (t : Word) : LoopRampIdle (dispatch tag t s) := by
  rcases dispatch_cases tag t s with
    ⟨rfl, hguard, h⟩ | ⟨rfl, hguard, h⟩ | ⟨_, _, h⟩ | ⟨_, _, h⟩ | ⟨_, h⟩ | ⟨_, h⟩ <;> rw [h]
  · obtain ⟨hmode, _⟩ := hguard
    exact loopRampIdle_of_mode_ne (by simp [hmode])
  · exact hs.rampStep hguard t
  · exact loopRampIdle_of_idle (by simp)
  · exact hs.congr rfl rfl
  · exact hs.congr rfl rfl
  · exact hs

theorem execTimerExpire (hs : LoopRampIdle s) {t : State} (h : execTimerExpire s = .next t) : LoopRampIdle t := by
  have hcancel : LoopRampIdle (schedCancel s) := hs.congr rfl rfl
  rcases execTimerExpire_cases s with ⟨_, _, ho⟩ | ⟨_, _, ho⟩ | ⟨_, ho⟩ <;> rw [ho] at h <;> cases h
  exact hcancel.dispatch _ _

/-! ### Every event -/

theorem memWrite (hs : LoopRampIdle s) (off : ℕ) (v : Word) : LoopRampIdle (memWrite off v s) := by
  unfold Machine.memWrite
  split
  · rw [writeReg_frame]
    exact hs.congr rfl rfl
  · exact hs

theorem execHostWrite (hs : LoopRampIdle s) {off v : Word} {n : AccessWidth} {t : State}
    (h : execHostWrite off v n s = .next t) : LoopRampIdle t := by
  have hresp (error : Bool) : LoopRampIdle (respond 0 error s) := hs.congr rfl rfl
  rcases execHostWrite_cases off v n s with ⟨_, ho⟩ | ⟨_, _, ho⟩ | ⟨_, _, ho⟩ <;> rw [ho] at h
  · cases h; exact hresp true
  · rcases runCommandWord_cases v (respond 0 false s) with ⟨_, _, hw⟩ | ⟨i, _, hi, hw⟩ | ⟨_, _, _, hw⟩ <;>
      rw [hw] at h
    · cases h; exact hs.congr rfl rfl
    · exact (hresp false).exec_command hi h
    · cases h; exact hs.congr rfl rfl
  · cases h; exact (hresp false).memWrite _ _

theorem exec (hs : LoopRampIdle s) {i : Instr} {t : State} (h : exec i s = .next t) : LoopRampIdle t := by
  by_cases hi : i.isCommand = true
  · exact hs.exec_command hi h
  cases i with
  | reset => cases h; exact loopRampIdle_of_idle rfl
  | adcSample => cases h; exact hs.congr rfl rfl
  | fastTick => cases h; exact ((hs.bemfProcess _ _).smFast _).stallCheck _
  | lowTick => exact hs.execLowTick h
  | timerExpire => exact hs.execTimerExpire h
  | faultIn => cases h; exact loopRampIdle_of_idle rfl
  | hostWrite => exact hs.execHostWrite h
  | hostRead off n =>
    rw [Machine.exec, execHostRead] at h
    split at h <;> cases h <;> exact hs.congr rfl rfl
  | timeAdvance => cases h; exact hs
  | _ => exact absurd rfl hi

end LoopRampIdle

/-- Settles O40. -/
theorem loopRampIdleKept : Obligations.LoopRampIdleKept := by
  intro s t hs h
  rcases step_next_cases h with rfl | hexpire | ⟨r, rest, i, _, _, hexec⟩
  · exact hs
  · exact hs.execTimerExpire hexpire
  · have htaken : LoopRampIdle (takeInput r.t rest s) := hs.congr rfl rfl
    exact htaken.exec hexec

end Sys2Proof.Machine
end

section
/-! The six-step sequencer and its state machine (file 43_commutation.md): the table, the stop events, the inverter
commands, `SET_SPEED`, the expiries of the state machine, and the fast tick with the handover's plan. -/

namespace Sys2Proof.Machine

/-! ### The six-step table (rules R330, R331) -/

/-- Settles O59: the rows as the table gives them, and one phase in each role. -/
theorem sixStepTable : Obligations.SixStepTable := by
  refine ⟨⟨rfl, rfl, rfl, rfl, rfl, rfl⟩, by decide, fun k d => ?roles⟩
  obtain ⟨hhl, hhf, hlf⟩ := pattern_roles_distinct k d
  exact ⟨hhl, hlf, hhf⟩

/-! ### The stop events (rules R451, R485) -/

/-- Settles O20: both run the one safety stop. -/
theorem stopEventsComplete : Obligations.StopEventsComplete := by
  refine fun s => ⟨?stop, ?fault⟩ <;> rw [exec]
  case stop => exact command_completes firstError_nil
  case fault => rw [execFaultIn, safetyStop_eq]; rfl

/-! ### The inverter commands (rules R333 to R338) -/

/-- The number of a hardware phase (rule R153). -/
def hphaseNumber : HPhase → ℕ
  | .a => 0
  | .b => 1
  | .c => 2

theorem hphaseNumber_of_field {v : BitVec 3} {h : HPhase} (hv : hphaseOfField v = some h) :
    hphaseNumber h = v.toNat := by
  unfold hphaseOfField at hv
  split at hv <;> cases hv <;> exact (by assumption : v.toNat = _).symm

theorem exists_hphaseNumber {q : ℕ} (hq : q ≤ 2) : ∃ h, hphaseNumber h = q := by
  interval_cases q
  · exact ⟨.a, rfl⟩
  · exact ⟨.b, rfl⟩
  · exact ⟨.c, rfl⟩

theorem outStateCode_of_field {v : BitVec 3} {o : OutState} (hv : outStateOfField v = some o) :
    (outStateCode o).toNat = v.toNat := by
  unfold outStateOfField at hv
  split at hv <;> cases hv <;> exact (by assumption : v.toNat = _).symm

theorem stepOfField_stepCode (k : StepIx) : stepOfField (stepCode k) = some k := by
  unfold stepOfField
  rw [dif_pos (by rw [stepCode_toNat]; exact k.isLt)]
  exact congrArg some (Fin.ext (stepCode_toNat k))

/-- A hardware phase's field of `INV_STATE` is the code of its output (rule R56). -/
theorem invStateWord_field (i : Inv) (h : HPhase) :
    (invStateWord i).toNat / 16 ^ hphaseNumber h % 16 = (outStateCode (getH i.ph h)).toNat := by
  have hword : (invStateWord i).toNat = (outStateCode i.ph.a).toNat + 16 * (outStateCode i.ph.b).toNat +
      256 * (outStateCode i.ph.c).toNat := by
    simp only [invStateWord, append_toNat, BitVec.toNat_ofNat]
    omega
  have ha := (outStateCode i.ph.a).isLt
  have hb := (outStateCode i.ph.b).isLt
  have hc := (outStateCode i.ph.c).isLt
  rw [hword]
  cases h <;> dsimp only [hphaseNumber, getH] <;> omega

theorem exec_invCommutate {s : State} (hmode : s.ctl.mode = .stopped) (hfault : s.ctl.faultLatched = false) (d : Dir)
    (k : StepIx) :
    exec (.invCommutate d (stepCode k)) s =
      .next (withStatus 0x30 .ok (applyCommutation k (arg0F32 s) d s.env.time s)) := by
  rw [exec, execInvCommutate, stepOfField_stepCode]
  exact command_completes (firstError_rampStart hmode hfault)

theorem exec_invSetPhase {s : State} (hmode : s.ctl.mode = .stopped) (hfault : s.ctl.faultLatched = false)
    {p st : BitVec 3} {h : HPhase} {o : OutState} (hp : hphaseOfField p = some h) (hst : outStateOfField st = some o) :
    exec (.invSetPhase p st) s = .next (withStatus 0x32 .ok (setOutputState h o s)) := by
  rw [exec, execInvSetPhase, hp, hst]
  exact command_completes (firstError_rampStart hmode hfault)

/-- Settles O18: a field of `INV_STATE` is the output of its phase, and `INV_SET_PHASE` writes one. -/
theorem inverterCommandsComplete : Obligations.InverterCommandsComplete := by
  refine fun s hmode => ⟨?disable, fun hfault => ⟨fun d k => ?commutate, fun p st hp hst => ?setPhase⟩⟩
  case disable => rw [exec]; exact command_completes (firstError_busyUnlessStopped hmode)
  case commutate =>
    rw [← stepCode, exec_invCommutate hmode hfault, applyCommutation_eq]
    rfl
  case setPhase =>
    obtain ⟨h, hh⟩ := exists_hphaseOfField hp
    obtain ⟨o, ho⟩ := exists_outStateOfField hst
    refine ⟨setH s.inv.ph h o, exec_invSetPhase hmode hfault hh ho, ?same, fun q hq hne => ?other⟩
    case same => rw [← hphaseNumber_of_field hh, invStateWord_field, getH_setH_same, outStateCode_of_field ho]
    case other =>
      obtain ⟨h', rfl⟩ := exists_hphaseNumber hq
      have hphase : h' ≠ h := fun heq => hne (heq ▸ hphaseNumber_of_field hh)
      rw [invStateWord_field, invStateWord_field, getH_setH_of_ne _ _ hphase]

/-! ### Starting a run, and `SET_SPEED` (rules R345, R410) -/

/-- The start of a run as one update (rule R345). -/
theorem startRun_eq (t : Word) (s : State) : startRun t s = runStarted t s := by
  simp only [startRun, applyCommutation_eq]
  rfl

theorem abs_isFinite {x : F32} (h : x.isFinite = true) : (F32.abs x).isFinite = true := by
  rw [F32.abs, if_neg (by simp [F32.finite_class x h]), F32.isFinite, (F32.pack_parts _ _ x.magnitude_lt).1]
  exact h

/-- Comparing equal to `+0` is being a zero of either sign. -/
theorem eq_zero_eq_isZero {x : F32} (h : x.isFinite = true) : F32.eq x ⟨0⟩ = x.isZero := by
  rw [Bool.eq_iff_iff, eq_iff_signedValue h zero_isFinite, signedValue_zero, signedValue_eq_zero_iff]

theorem firstError_setSpeed {s : State} (hfault : s.ctl.faultLatched = false) (hinit : s.bemf.initDone = true)
    (hfinite : (F32.ofWord s.iface.arg0).isFinite = true) :
    firstError [faultIfLatched s, notReadyUnlessInit s, badArgIf (!(arg0F32 s).isFinite)] = .ok := by
  rw [(faultIfLatched_eq_ok s).mpr hfault, (notReadyUnlessInit_eq_ok s).mpr hinit, arg0F32, hfinite]
  rfl

/-- Settles O19: the cases of rule R410 by mode, magnitude and direction. -/
theorem setSpeedCompletes : Obligations.SetSpeedCompletes := by
  intro s hfault hinit hfinite x mag d
  have hzero : F32.eq mag ⟨0⟩ = mag.isZero := eq_zero_eq_isZero (abs_isFinite hfinite)
  have hexec : exec .setSpeed s = .next (withStatus 0x40 .ok (setSpeed s.env.time x s)) := by
    rw [exec]
    exact command_completes (firstError_setSpeed hfault hinit hfinite)
  rw [hexec, hzero, ← startRun_eq, setSpeed]
  cases s.ctl.mode with
  | stopped => rfl
  | openLoop | closedLoop => rfl

/-! ### The expiries of the state machine (rules R252, R346, R349, R352) -/

theorem alignDone_eq (t : Word) (s : State) :
    alignDone t s = rampStarted t .stateMachine s.speed.motorDir { s with
      ctl := { s.ctl with aligning := false }
      bemf := bemfCleared s.bemf } := by
  rw [alignDone, rampStart_eq]
  rfl

/-- The handover as one update (rules R349, R350). -/
theorem handoverFire_eq (t : Word) (s : State) : handoverFire t s = handedOver t s := by
  rw [handoverFire, applyCommutation_eq]
  rfl

/-- The closed-loop commutation as one update (rule R352). -/
theorem clFire_eq (t : Word) (s : State) :
    clFire t s = { s with
      comm := { committedComm (s.comm.step + 1) s.speed.duty s.comm.dir t s.comm with
        armed := false, handoverArmed := false }
      inv := committedInv s.inst.phaseMap (s.comm.step + 1) s.speed.duty s.comm.dir } := by
  rw [clFire, applyCommutation_eq]

theorem dispatch_alignDone {s : State} (hmode : s.ctl.mode = .openLoop) (haligning : s.ctl.aligning = true) (t : Word) :
    dispatch .alignDone t s = alignDone t s := if_pos (by rw [hmode, haligning]; rfl)

theorem dispatch_handover {s : State} (hmode : s.ctl.mode = .openLoop) (htransition : s.comm.transition = true)
    (t : Word) : dispatch .handover t s = handoverFire t s := if_pos (by rw [hmode, htransition]; rfl)

theorem dispatch_clComm {s : State} (hmode : s.ctl.mode = .closedLoop) (harmed : s.comm.armed = true) (t : Word) :
    dispatch .clComm t s = clFire t s := if_pos (by rw [hmode, harmed]; rfl)

/-- Settles O30: the start of the ramp arms the slot that the expiry emptied. -/
theorem timerEndsAlignment : Obligations.TimerEndsAlignment := by
  intro s hactive htag hmode haligning
  rw [exec_timerExpire_of_pending hactive (by simp [htag]), htag,
    dispatch_alignDone (s := schedCancel s) hmode haligning, alignDone_eq]
  rfl

/-- Settles O32: the handover arms the slot that the expiry emptied, the closed-loop commutation leaves it so. -/
theorem timerCommutates : Obligations.TimerCommutates := by
  refine fun s hactive => ⟨fun htag hmode htransition => ?handover, fun htag hmode harmed => ?clComm⟩ <;>
    rw [exec_timerExpire_of_pending hactive (by simp [htag]), htag]
  case handover =>
    rw [dispatch_handover (s := schedCancel s) hmode htransition, handoverFire_eq]
    rfl
  case clComm =>
    rw [dispatch_clComm (s := schedCancel s) hmode harmed, clFire_eq]
    rfl

/-! ### The fast tick (rules R340, R341, R343, R351) -/

/-- BEMF processing gives the sample buffer and the BEMF elements new values and keeps every other element. -/
theorem bemfProcess_eq_with (fp : CPhase) (t : Word) (s : State) :
    ∃ adc bemf, bemfProcess fp t s = { s with adc := adc, bemf := bemf } := ⟨_, _, bemfProcess_frame fp t s⟩

theorem exec_fastTick (s : State) :
    exec .fastTick s =
      .next (stallCheck s.env.time (smFast s.env.time (bemfProcess s.comm.float s.env.time s))) := rfl

theorem stallCheck_eq (t : Word) (s : State) : stallCheck t s = stallChecked t s := rfl

/-- No time has passed since a commutation at `t`, so the stall check at `t` keeps the motor running. -/
theorem stallCheck_of_lastComm {t : Word} {s : State} (h : s.comm.lastComm = t) : stallCheck t s = s := by
  refine if_neg fun ⟨_, _, hlt⟩ => ?_
  rw [h, BitVec.sub_self] at hlt
  exact BitVec.not_lt_zero hlt

theorem ramping_iff (s : State) : ramping s = true ↔ RampingPhase s := by
  simp [ramping, RampingPhase, and_assoc]

theorem smFast_of_no_flag {s : State} (h : s.bemf.zcFlag = false) (t : Word) : smFast t s = s :=
  if_neg (by simp [h])

theorem smFast_of_openLoop {s : State} (hmode : s.ctl.mode = .openLoop) (hflag : s.bemf.zcFlag = true) (t : Word) :
    smFast t s = if ramping s then handoverEval t (flagConsumed s) else flagConsumed s := by
  rw [smFast, if_pos hflag, hmode]
  rfl

theorem smFast_of_closedLoop {s : State} (hmode : s.ctl.mode = .closedLoop) (hflag : s.bemf.zcFlag = true) (t : Word) :
    smFast t s = clZc t (flagConsumed s) := by
  rw [smFast, if_pos hflag, hmode]
  rfl

/-- Settles O25: the branches of rule R341 on the state BEMF processing leaves, in the mode before the tick. -/
theorem fastTickRunsStateMachine : Obligations.FastTickRunsStateMachine := by
  intro s t u
  obtain ⟨adc, bemf, hu⟩ : ∃ adc bemf, u = { s with adc := adc, bemf := bemf } := bemfProcess_eq_with _ _ s
  have hexec : exec .fastTick s = .next (stallCheck t (smFast t u)) := exec_fastTick s
  have hmode : u.ctl.mode = s.ctl.mode := by rw [hu]
  refine ⟨fun hstopped => fastTick_of_stopped hstopped, fun hflag => ?noFlag, fun hopen hflag hramp => ?openLoop,
    fun hclosed hflag harm => ?closedKept, fun hclosed hflag hphase harmed => ?closedArmed⟩
  case noFlag => rw [hexec, smFast_of_no_flag hflag, stallCheck_eq]
  case openLoop =>
    have hramping : ¬ramping u = true := by rw [ramping_iff, hu]; exact hramp
    have hloop : (flagConsumed u).ctl.mode ≠ .closedLoop := by
      change u.ctl.mode ≠ _
      rw [hmode, hopen]
      decide
    rw [hexec, smFast_of_openLoop (hmode.trans hopen) hflag, if_neg hramping, stallCheck_of_not_closedLoop hloop]
  case closedKept =>
    have hkept : clZc t (flagConsumed u) = flagConsumed u := if_neg (by rw [hu] at harm ⊢; exact harm)
    rw [hexec, smFast_of_closedLoop (hmode.trans hclosed) hflag, hkept, stallCheck_eq]
  case closedArmed =>
    have harm : (flagConsumed u).bemf.zcPhase = (flagConsumed u).comm.float ∧ (flagConsumed u).comm.armed = false := by
      rw [hu] at hphase ⊢
      exact ⟨hphase, harmed⟩
    rw [hexec, smFast_of_closedLoop (hmode.trans hclosed) hflag, clZc, if_pos harm, stallCheck_eq]
    rfl

/-! ### The handover's plan (rules R342, R347, R348) -/

theorem qualifies_iff (s : State) : qualifies s = true ↔ Qualifying s := by
  simp [qualifies, Qualifying, periodLaw, and_assoc]

/-- The handover fires at once, by the words of rule R348 or by their values. -/
theorem firesAtOnce_iff (delay age least : Word) :
    (delay ≤ age ∨ delay - age < least) ↔
      (delay.toNat ≤ age.toNat ∨ delay.toNat - age.toNat < least.toNat) := by
  by_cases h : delay ≤ age
  · exact iff_of_true (.inl h) (.inl h)
  · rw [or_iff_right h, or_iff_right (mt BitVec.le_def.mpr h), BitVec.lt_def, BitVec.toNat_sub_of_le (by bv_omega)]

theorem handoverEval_of_not_qualifying {s : State} (h : ¬Qualifying s) (t : Word) :
    handoverEval t s = setStreak 0 s := if_neg (mt (qualifies_iff s).mp h)

theorem handoverEval_of_streak_lt {s : State} {n : Half} (hq : Qualifying s) (hn : inc16 s.ho.streak = n)
    (h : n < s.cfg.clStreakMin) (t : Word) : handoverEval t s = setStreak n s := by
  rw [handoverEval, if_pos ((qualifies_iff s).mpr hq), hn]
  exact if_pos h

theorem handoverEval_of_streak_ge {s : State} {n : Half} (hq : Qualifying s) (hn : inc16 s.ho.streak = n)
    (h : s.cfg.clStreakMin ≤ n) (t : Word) : handoverEval t s = handoverPlan t (setStreak n s) := by
  rw [handoverEval, if_pos ((qualifies_iff s).mpr hq), hn]
  exact if_neg (BitVec.not_lt.mpr h)

/-- A planned handover whose time has come fires at once (rule R348). -/
theorem handoverPlan_of_due {t : Word} {s : State}
    (h : (commDelay s.cfg s.bemf.period).toNat ≤ (t - s.bemf.lastZc).toNat ∨
      (commDelay s.cfg s.bemf.period).toNat - (t - s.bemf.lastZc).toNat < s.cfg.schedMinUs.toNat) (n : Half) :
    handoverPlan t (setStreak n s) = handedOver t (handoverCaptured n s) := by
  rw [← handoverFire_eq]
  exact if_pos ((firesAtOnce_iff _ _ _).mpr h)

/-- A planned handover waits for the rest of the lead delay (rule R348). -/
theorem handoverPlan_of_early {t : Word} {s : State}
    (hage : (t - s.bemf.lastZc).toNat < (commDelay s.cfg s.bemf.period).toNat)
    (hleast : s.cfg.schedMinUs.toNat ≤ (commDelay s.cfg s.bemf.period).toNat - (t - s.bemf.lastZc).toNat) (n : Half) :
    handoverPlan t (setStreak n s) =
      schedStart t (BitVec.ofNat 32 ((commDelay s.cfg s.bemf.period).toNat - (t - s.bemf.lastZc).toNat)) .handover
        (handoverCaptured n s) := by
  rw [← BitVec.toNat_sub_of_le hage.le, BitVec.ofNat_toNat, BitVec.setWidth_eq]
  refine if_neg fun hdue => ?_
  have hdue' := (firesAtOnce_iff _ _ _).mp hdue
  dsimp only [captureRamp_cfg, captureRamp_bemf, setStreak_cfg, setStreak_bemf] at hdue'
  omega

/-- Settles O26: a fast tick in the ramping phase is `handover_eval` on the state with the flag consumed, and the stall
check keeps what it gives. -/
theorem fastTickPlansHandover : Obligations.FastTickPlansHandover := by
  intro s t u n captured delay age hmode hramp hflag
  obtain ⟨adc, bemf, hu⟩ : ∃ adc bemf, u = { s with adc := adc, bemf := bemf } := bemfProcess_eq_with _ _ s
  have humode : u.ctl.mode = .openLoop := by rw [hu]; exact hmode
  have hexec : exec .fastTick s = .next (stallCheck t (handoverEval t (flagConsumed u))) := by
    have hramping : ramping u = true := by rw [ramping_iff, hu]; exact hramp
    rw [exec_fastTick, smFast_of_openLoop humode hflag, if_pos hramping]
  have hkeep {v : State} (hv : v.ctl = u.ctl) : stallCheck t v = v :=
    stallCheck_of_not_closedLoop (by rw [hv, humode]; decide) t
  rw [hexec]
  clear_value u
  subst hu
  have hstreak : inc16 s.ho.streak = n := inc16_eq s.ho.streak
  refine ⟨fun hq => ?reset, fun hq hless => ?raised, fun hq hmin => ?reached⟩
  case reset =>
    rw [handoverEval_of_not_qualifying (s := flagConsumed _) hq]
    exact congrArg _ (hkeep rfl)
  case raised =>
    rw [handoverEval_of_streak_lt (s := flagConsumed _) hq hstreak hless]
    exact congrArg _ (hkeep rfl)
  case reached =>
    rw [handoverEval_of_streak_ge (s := flagConsumed _) hq hstreak hmin]
    refine ⟨fun hdue => ?fires, fun hage hleast => ?waits⟩
    case fires =>
      rw [handoverPlan_of_due (s := flagConsumed _) hdue]
      exact congrArg _ (stallCheck_of_lastComm rfl)
    case waits =>
      rw [handoverPlan_of_early (s := flagConsumed _) hage hleast]
      exact congrArg _ (hkeep rfl)

end Sys2Proof.Machine
end

section
/-! What an event does to a run of the motor (rules R344, R356, R486): every change of `MODE` and of OpenLoop's phases,
with the event that makes it, as one inversion of `exec`. -/

namespace Sys2Proof.Machine

/-! ### What an event can do to a run -/

/-- `MODE` and the flags of OpenLoop's phases are what they were. -/
def PhaseKept (s t : State) : Prop :=
  t.ctl.mode = s.ctl.mode ∧ t.ctl.aligning = s.ctl.aligning ∧ t.comm.transition = s.comm.transition

/-- OpenLoop's alignment with no handover planned, in which every run begins (rule R345). -/
def RunBegun (t : State) : Prop :=
  t.ctl.mode = .openLoop ∧ t.ctl.aligning = true ∧ t.comm.transition = false

/-- Stopped, with nothing driven, pending, armed or commanded (rule R486). -/
def RunEnded (t : State) : Prop :=
  t.ctl.mode = .stopped ∧ AllHiZ t ∧ SlotEmpty t ∧ t.ctl.aligning = false ∧ t.comm.armed = false ∧
    t.comm.transition = false ∧ t.comm.handoverArmed = false ∧ t.ramp.active = false ∧
    t.speed.reversePending = false ∧ t.speed.duty = ⟨0⟩ ∧ t.speed.cmd = ⟨0⟩

/-- Without leaving OpenLoop, the alignment ended (rule R346). -/
def AlignmentEnded (s t : State) : Prop :=
  t.ctl.mode = .openLoop ∧ t.ctl.aligning = false ∧ t.comm.transition = s.comm.transition

/-- Without leaving OpenLoop, a handover was planned (rule R348). -/
def HandoverPlanned (s t : State) : Prop := t.ctl.mode = .openLoop ∧ t.ctl.aligning = s.ctl.aligning

/-- The handover ran, from a state with the commutations, the ramp and the speeds of `s` (rule R349). -/
def HandoverFired (s t : State) : Prop :=
  ∃ time u, u.inst = s.inst ∧ u.comm.count = s.comm.count ∧ u.ramp = s.ramp ∧ u.speed = s.speed ∧
    t = handedOver time u

/-- What an event `i` from `s` to `t` did to the run: the rows of rule R344's table and nothing else. -/
inductive RunChange (i : Instr) (s t : State) : Prop where
  | kept (ht : PhaseKept s t)
  | begun (hi : commandOf i = some .setSpeed) (hs : s.ctl.mode = .stopped) (ht : RunBegun t)
  | aligned (hi : i = .timerExpire) (htag : s.sched.tag = .alignDone) (hs : s.ctl.mode = .openLoop)
      (ht : AlignmentEnded s t)
  | planned (hi : i = .fastTick) (hs : s.ctl.mode = .openLoop) (ht : HandoverPlanned s t)
  | fired (hi : i = .fastTick ∨ (i = .timerExpire ∧ s.sched.tag = .handover)) (hs : s.ctl.mode = .openLoop)
      (ht : HandoverFired s t)
  | reversed (hi : i = .lowTick) (hpending : s.speed.reversePending = true) (hs : s.ctl.mode ≠ .stopped)
      (ht : RunBegun t) (hcause : t.ctl.stopCause = .reversal)
  | halted (hi : commandOf i = some .motorStop ∨ i = .faultIn ∨ i = .reset) (ht : RunEnded t)
  | rampEnded (hi : i = .timerExpire) (htag : s.sched.tag = .rampStep) (hactive : s.ramp.active = true)
      (ht : RunEnded t)
  | stalled (hi : i = .fastTick) (hs : s.ctl.mode = .closedLoop) (ht : RunEnded t)

theorem PhaseKept.refl (s : State) : PhaseKept s s := ⟨rfl, rfl, rfl⟩

theorem PhaseKept.mode {s t : State} (h : PhaseKept s t) : t.ctl.mode = s.ctl.mode := h.1

theorem RunBegun.mode {t : State} (h : RunBegun t) : t.ctl.mode = .openLoop := h.1

theorem RunEnded.mode {t : State} (h : RunEnded t) : t.ctl.mode = .stopped := h.1

theorem AlignmentEnded.mode {s t : State} (h : AlignmentEnded s t) : t.ctl.mode = .openLoop := h.1

theorem HandoverPlanned.mode {s t : State} (h : HandoverPlanned s t) : t.ctl.mode = .openLoop := h.1

theorem HandoverFired.mode {s t : State} (h : HandoverFired s t) : t.ctl.mode = .closedLoop := by
  obtain ⟨_, _, _, _, _, _, rfl⟩ := h
  rfl

theorem safetyStop_runEnded (cause : StopCause) (s : State) : RunEnded (safetyStop cause s) :=
  ⟨rfl, rfl, ⟨rfl, rfl⟩, rfl, rfl, rfl, rfl, rfl, rfl, rfl, rfl⟩

theorem startRun_runBegun (t : Word) (s : State) : RunBegun (startRun t s) :=
  ⟨by simp, by simp, by simp⟩

/-! ### The commands -/

/-- A command keeps the phase when its effect does. -/
theorem command_phaseKept {opc : BitVec 8} {checks : List CmdErr} {effect : State → State} {s t : State}
    (h : command opc checks effect s = .next t) (heffect : PhaseKept s (effect s)) : PhaseKept s t := by
  rcases command_cases h with ⟨_, ho⟩ | ⟨_, ho⟩ <;> cases ho
  · exact heffect
  · exact PhaseKept.refl s

/-- `SET_SPEED` begins a run from Stopped, or writes the commanded speed only (rule R410). -/
theorem setSpeed_phase (t : Word) (x : F32) (s : State) :
    PhaseKept s (setSpeed t x s) ∨ (s.ctl.mode = .stopped ∧ RunBegun (setSpeed t x s)) := by
  unfold setSpeed
  dsimp only
  split
  · next hmode =>
    split
    · exact .inl (PhaseKept.refl s)
    · exact .inr ⟨hmode, startRun_runBegun t _⟩
  all_goals
    refine .inl ?_
    split
    · exact PhaseKept.refl s
    · split <;> exact PhaseKept.refl s

/-- What a command `i` from `s` to `t` did to the run: of the commands, `SET_SPEED` alone begins one and `MOTOR_STOP`
alone ends one. -/
def CommandChange (i : Instr) (s t : State) : Prop :=
  PhaseKept s t ∨ (i = .setSpeed ∧ s.ctl.mode = .stopped ∧ RunBegun t) ∨ (i = .motorStop ∧ RunEnded t)

theorem exec_commandChange {i : Instr} {s t : State} (hi : i.isCommand = true) (h : exec i s = .next t) :
    CommandChange i s t := by
  cases i with
  | setSpeed =>
    rw [exec] at h
    rcases command_cases h with ⟨_, ho⟩ | ⟨_, ho⟩ <;> cases ho
    · exact (setSpeed_phase _ _ s).imp_right fun hbegun => .inl ⟨rfl, hbegun⟩
    · exact .inl (PhaseKept.refl s)
  | motorStop =>
    rw [exec] at h
    rcases command_cases h with ⟨_, ho⟩ | ⟨hne, _⟩
    · cases ho; exact .inr (.inr ⟨rfl, safetyStop_runEnded _ s⟩)
    · exact absurd firstError_nil hne
  | invCommutate d step =>
    refine .inl ?_
    rw [exec, execInvCommutate] at h
    split at h
    · cases h; exact PhaseKept.refl s
    · exact command_phaseKept h (PhaseKept.refl s)
  | invSetPhase phase st =>
    refine .inl ?_
    rw [exec, execInvSetPhase] at h
    split at h
    · exact command_phaseKept h (PhaseKept.refl s)
    all_goals cases h; exact PhaseKept.refl s
  | rampStart d =>
    rw [exec] at h
    exact .inl (command_phaseKept h ⟨by simp, by simp, by simp⟩)
  | nop | bemfInit | bemfReset | bemfClearFlag | bemfGetStatus | schedStart | schedCancel | schedIsActive | rampStop
  | rampStopSoft | rampGetState | invDisable | setSlope | faultClear | pidReset | telemetry | clearSticky =>
    rw [exec] at h
    exact .inl (command_phaseKept h (PhaseKept.refl s))
  | _ => cases hi

theorem commandOf_of_isCommand {i : Instr} (hi : i.isCommand = true) : commandOf i = some i := by
  cases i with
  | hostWrite => cases hi
  | _ => simp only [commandOf, hi, if_true]

theorem commandOf_hostWrite {off v : Word} {n : AccessWidth} {i : Instr} (hacc : accessError off n = false)
    (hoff : off = 0x004) (hv : decodeCommand v = .ok i) : commandOf (.hostWrite off v n) = some i := by
  have hwidth : n = .four := by
    by_contra hne
    rw [(accessError_iff off n).mpr (.inl hne)] at hacc
    cases hacc
  rw [commandOf, if_pos ⟨hoff, hwidth⟩, hv]
  rfl

theorem RunChange.of_command {i j : Instr} {s t : State} (hj : commandOf j = some i) (h : CommandChange i s t) :
    RunChange j s t := by
  rcases h with hkept | ⟨rfl, hs, ht⟩ | ⟨rfl, ht⟩
  · exact .kept hkept
  · exact .begun hj hs ht
  · exact .halted (.inl hj) ht

theorem memWrite_phaseKept (off : ℕ) (v : Word) (s : State) : PhaseKept s (memWrite off v s) := by
  unfold memWrite
  split
  · rw [writeReg_frame]
    exact PhaseKept.refl s
  · exact PhaseKept.refl s

/-- A write to `CMD` does to the run what its command does; any other access keeps the phase. -/
theorem RunChange.of_hostWrite {off v : Word} {n : AccessWidth} {s t : State}
    (h : exec (.hostWrite off v n) s = .next t) : RunChange (.hostWrite off v n) s t := by
  rw [exec] at h
  rcases execHostWrite_cases off v n s with ⟨_, ho⟩ | ⟨hacc, hoff, ho⟩ | ⟨_, _, ho⟩ <;> rw [ho] at h
  · cases h; exact .kept (PhaseKept.refl s)
  · rcases runCommandWord_cases v (respond 0 false s) with ⟨_, _, hw⟩ | ⟨i, hv, hi, hw⟩ | ⟨_, _, _, hw⟩ <;>
      rw [hw] at h
    · cases h; exact .kept (PhaseKept.refl s)
    · have hchange : CommandChange i (respond 0 false s) t := exec_commandChange hi h
      exact .of_command (commandOf_hostWrite hacc hoff hv) hchange
    · cases h; exact .kept (PhaseKept.refl s)
  · cases h; exact .kept (memWrite_phaseKept _ _ _)

/-! ### The fast tick -/

/-- The plan schedules the handover, in OpenLoop as before, or fires it. -/
theorem handoverPlan_cases (t : Word) (s : State) :
    (handoverPlan t s).ctl = s.ctl ∨
      (HandoverFired s (handoverPlan t s) ∧ (handoverPlan t s).comm.lastComm = t) := by
  unfold handoverPlan
  dsimp only
  split
  · rw [handoverFire_eq]
    exact .inr ⟨⟨t, captureRamp s, rfl, rfl, rfl, rfl, rfl⟩, rfl⟩
  · exact .inl rfl

theorem handoverEval_cases (t : Word) (s : State) :
    (handoverEval t s).ctl = s.ctl ∨
      (HandoverFired s (handoverEval t s) ∧ (handoverEval t s).comm.lastComm = t) := by
  unfold handoverEval
  dsimp only
  split
  · split
    · exact .inl rfl
    · exact handoverPlan_cases t _
  · exact .inl rfl

/-- What the state machine does at a fast tick: keep the phase, or, in OpenLoop, plan the handover or fire it. -/
theorem smFast_cases (t : Word) (s : State) :
    PhaseKept s (smFast t s) ∨
      (s.ctl.mode = .openLoop ∧
        (HandoverPlanned s (smFast t s) ∨ (HandoverFired s (smFast t s) ∧ (smFast t s).comm.lastComm = t))) := by
  unfold smFast
  split
  · split
    · exact .inl (PhaseKept.refl s)
    · next hmode =>
      dsimp only
      split
      · refine .inr ⟨hmode, (handoverEval_cases t (clearZcFlag s)).imp_left fun hctl => ?_⟩
        rw [HandoverPlanned, hctl]
        exact ⟨hmode, rfl⟩
      · exact .inl (PhaseKept.refl s)
    · unfold clZc
      split <;> exact .inl (PhaseKept.refl s)
  · exact .inl (PhaseKept.refl s)

/-- The stall check stops a motor in ClosedLoop or does nothing (rule R343). -/
theorem stallCheck_cases (t : Word) (s : State) :
    stallCheck t s = s ∨ (s.ctl.mode = .closedLoop ∧ stallCheck t s = safetyStop .stallTimeout s) := by
  unfold stallCheck
  split
  · next h =>
    obtain ⟨hclosed, _⟩ := h
    exact .inr ⟨hclosed, rfl⟩
  · exact .inl rfl

theorem RunChange.of_fastTick {s t : State} (h : exec .fastTick s = .next t) : RunChange .fastTick s t := by
  rw [exec_fastTick] at h
  obtain ⟨adc, bemf, hu⟩ := bemfProcess_eq_with s.comm.float s.env.time s
  rw [hu] at h
  cases h
  rcases smFast_cases s.env.time { s with adc := adc, bemf := bemf } with
    hkept | ⟨hmode, hplanned | ⟨hfired, hlast⟩⟩
  · rcases stallCheck_cases s.env.time (smFast s.env.time { s with adc := adc, bemf := bemf }) with
      hcheck | ⟨hclosed, hcheck⟩ <;> rw [hcheck]
    · exact .kept hkept
    · exact .stalled rfl (hkept.mode.symm.trans hclosed) (safetyStop_runEnded _ _)
  · have hopen : (smFast s.env.time { s with adc := adc, bemf := bemf }).ctl.mode ≠ .closedLoop := by
      rw [hplanned.mode]; decide
    rw [stallCheck_of_not_closedLoop hopen]
    exact .planned rfl hmode hplanned
  · rw [stallCheck_of_lastComm hlast]
    exact .fired (.inl rfl) hmode hfired

/-! ### The low tick -/

theorem measureSpeed_eq_with (s : State) : ∃ m, measureSpeed s = { s with speed := { s.speed with meas := m } } := by
  unfold measureSpeed
  split <;> exact ⟨_, rfl⟩

theorem regulate_phaseKept (s : State) : PhaseKept s (regulate s) := by
  unfold regulate
  split <;> exact PhaseKept.refl s

theorem reversalDue_iff (s : State) :
    reversalDue s = true ↔ s.speed.reversePending = true ∧ s.ctl.mode ≠ .stopped ∧
      F32.lt s.speed.meas (F32.ofWord s.cfg.revThreshRpm) = true := by
  simp [reversalDue, and_assoc]

theorem RunChange.of_lowTick {s t : State} (h : exec .lowTick s = .next t) : RunChange .lowTick s t := by
  rw [exec, execLowTick] at h
  obtain ⟨m, hm⟩ := measureSpeed_eq_with s
  rw [hm] at h
  cases h
  split
  · next hdue =>
    obtain ⟨hpending, hmode, _⟩ := (reversalDue_iff _).mp hdue
    exact .reversed rfl hpending hmode (startRun_runBegun _ _) (by simp)
  · exact .kept (regulate_phaseKept _)

/-! ### The expiry -/

/-- A ramp step ends the run or keeps the phase (rules R282, R354). -/
theorem rampStep_phase (t : Word) (s : State) : PhaseKept s (rampStep t s) ∨ RunEnded (rampStep t s) := by
  rcases rampStep_cases t s with ⟨f, d, h⟩ | ⟨_, h⟩ | ⟨_, h⟩ <;> rw [h]
  · exact .inl ⟨by simp, by simp, by simp⟩
  · exact .inr (safetyStop_runEnded _ _)
  · exact .inl (PhaseKept.refl s)

theorem RunChange.of_timerExpire {s t : State} (h : exec .timerExpire s = .next t) : RunChange .timerExpire s t := by
  rw [exec] at h
  rcases execTimerExpire_cases s with ⟨_, _, ho⟩ | ⟨_, _, ho⟩ | ⟨_, ho⟩ <;> rw [ho] at h <;> cases h
  rcases dispatch_cases s.sched.tag s.sched.deadline (schedCancel s) with
    ⟨htag, hguard, h⟩ | ⟨htag, hguard, h⟩ | ⟨htag, hguard, h⟩ | ⟨htag, hguard, h⟩ | ⟨htag, h⟩ | ⟨_, h⟩ <;> rw [h]
  · rw [htag] at hguard
    obtain ⟨hmode, _⟩ := hguard
    exact .aligned rfl htag hmode ⟨by simpa using hmode, by simp, by simp⟩
  · rw [htag] at hguard
    rcases rampStep_phase s.sched.deadline (schedCancel s) with hkept | hended
    · exact .kept hkept
    · exact .rampEnded rfl htag hguard hended
  · rw [htag] at hguard
    obtain ⟨hmode, _⟩ := hguard
    rw [handoverFire_eq]
    exact .fired (.inr ⟨rfl, htag⟩) hmode ⟨_, schedCancel s, rfl, rfl, rfl, rfl, rfl⟩
  · exact .kept (PhaseKept.refl s)
  · exact .kept (PhaseKept.refl s)
  · exact .kept (PhaseKept.refl s)

/-! ### Every event -/

/-- Everything an event can do to a run. -/
theorem exec_runChange {i : Instr} {s t : State} (h : exec i s = .next t) : RunChange i s t := by
  by_cases hi : i.isCommand = true
  · exact .of_command (commandOf_of_isCommand hi) (exec_commandChange hi h)
  cases i with
  | reset => cases h; exact .halted (.inr (.inr rfl)) ⟨rfl, rfl, ⟨rfl, rfl⟩, rfl, rfl, rfl, rfl, rfl, rfl, rfl, rfl⟩
  | adcSample => cases h; exact .kept (PhaseKept.refl s)
  | fastTick => exact .of_fastTick h
  | lowTick => exact .of_lowTick h
  | timerExpire => exact .of_timerExpire h
  | faultIn => cases h; exact .halted (.inr (.inl rfl)) (safetyStop_runEnded .hardwareFault s)
  | hostWrite => exact .of_hostWrite h
  | hostRead off n =>
    rw [exec, execHostRead] at h
    split at h <;> cases h <;> exact .kept (PhaseKept.refl s)
  | timeAdvance => cases h; exact .kept (PhaseKept.refl s)
  | _ => exact absurd rfl hi

/-! ### Ways out of a running mode (rules R344, R356, R486) -/

/-- Settles O47: an event that leaves a running mode for Stopped is one that ends the run. -/
theorem stopsAreSafe : Obligations.StopsAreSafe := by
  intro i s t h hrunning hstopped
  cases exec_runChange h with
  | halted _ ht | rampEnded _ _ _ ht | stalled _ _ ht =>
    obtain ⟨_, hsafe⟩ := ht
    exact hsafe
  | kept ht => exact absurd (ht.mode.symm.trans hstopped) hrunning
  | begun _ _ ht | aligned _ _ _ ht | planned _ _ ht | fired _ _ ht | reversed _ _ _ ht _ =>
    rw [ht.mode] at hstopped
    cases hstopped

/-- A pattern drives its high phase, whatever the phase map. -/
theorem committedInv_ne_hiZ (m : PhaseMap) (k : StepIx) (duty : F32) (d : Dir) :
    (committedInv m k duty d).ph ≠ ⟨.hiZ, .hiZ, .hiZ⟩ := by
  intro hph
  have hhigh : getH (committedInv m k duty d).ph (mapPhase m (highOf k d)) = .pwmActive := by
    rw [committedInv, ← drivePattern_eq m k d ⟨.hiZ, .hiZ, .hiZ⟩, getH_drivePattern]
    exact if_pos rfl
  rw [hph] at hhigh
  cases hp : mapPhase m (highOf k d) <;> rw [hp] at hhigh <;> cases hhigh

/-- Settles O48: OpenLoop is left for ClosedLoop by the handover only. -/
theorem handoverKeepsDriving : Obligations.HandoverKeepsDriving := by
  intro i s t h hopen hclosed
  cases exec_runChange h with
  | fired _ _ ht =>
    obtain ⟨time, u, hinst, hcount, hramp, hspeed, rfl⟩ := ht
    rw [← hinst, ← hcount, ← hramp, ← hspeed]
    exact ⟨rfl, committedInv_ne_hiZ _ _ _ _, rfl, rfl, rfl, rfl, rfl, rfl, rfl, rfl, rfl⟩
  | kept ht =>
    rw [ht.mode, hopen] at hclosed
    cases hclosed
  | begun _ _ ht | aligned _ _ _ ht | planned _ _ ht | reversed _ _ _ ht _ | halted _ ht | rampEnded _ _ _ ht
  | stalled _ _ ht =>
    rw [ht.mode] at hclosed
    cases hclosed

/-! ### The transition table (rule R344) -/

/-- Settles O45: each change of a run is a row of the table.  A ramp's end in ClosedLoop, which is no row, would need an
active ramp there. -/
theorem modeChangesOnlyByTable : Obligations.ModeChangesOnlyByTable := by
  intro i s t _ hidle h
  cases exec_runChange h with
  | kept ht =>
    obtain ⟨hmode, haligning, htransition⟩ := ht
    rw [hmode, haligning, htransition]
    cases s.ctl.mode with
    | stopped | closedLoop => trivial
    | openLoop =>
      exact ⟨fun h1 h0 => absurd h1 (ne_true_of_eq_false h0), fun h0 h1 => absurd h1 (ne_true_of_eq_false h0),
        fun h0 h1 => absurd h1 (ne_true_of_eq_false h0)⟩
  | begun hi hs ht =>
    obtain ⟨hmode, haligning, _⟩ := ht
    rw [hs, hmode]
    exact ⟨hi, haligning⟩
  | aligned hi htag hs ht =>
    obtain ⟨hmode, haligning, htransition⟩ := ht
    rw [hs, hmode, haligning, htransition]
    exact ⟨fun _ _ => ⟨hi, htag⟩, nofun, fun h0 h1 => absurd h1 (ne_true_of_eq_false h0)⟩
  | planned hi hs ht =>
    obtain ⟨hmode, haligning⟩ := ht
    rw [hs, hmode, haligning]
    exact ⟨fun h1 h0 => absurd h1 (ne_true_of_eq_false h0), fun h0 h1 => absurd h1 (ne_true_of_eq_false h0),
      fun _ _ => hi⟩
  | fired hi hs ht =>
    rw [hs, ht.mode]
    exact hi
  | reversed hi hpending hs ht hcause =>
    obtain ⟨hmode, haligning, htransition⟩ := ht
    rw [hmode, haligning, htransition]
    cases hfrom : s.ctl.mode with
    | stopped => exact absurd hfrom hs
    | openLoop => exact ⟨nofun, fun _ _ => ⟨hi, hpending, hcause⟩, nofun⟩
    | closedLoop => exact ⟨hi, hpending, rfl, hcause⟩
  | halted hi ht =>
    rw [ht.mode]
    cases s.ctl.mode with
    | stopped => trivial
    | openLoop | closedLoop => exact hi.imp_right fun hi => hi.imp_right .inr
  | rampEnded hi htag hactive ht =>
    have hopen : s.ctl.mode ≠ .closedLoop := hidle.mode_ne hactive
    rw [ht.mode]
    cases hfrom : s.ctl.mode with
    | stopped => trivial
    | openLoop => exact .inr (.inr (.inl ⟨hi, htag⟩))
    | closedLoop => exact absurd hfrom hopen
  | stalled hi hs ht =>
    rw [hs, ht.mode]
    exact .inr (.inr (.inl hi))

end Sys2Proof.Machine
end

section
/-! The speed regulator (file 44_speed_regulator.md): the low tick as a measurement and then either a reversal or the
slewed target and the PID, and the zeros that a PID step with zero gains adds up. -/

namespace Sys2Proof.Machine

/-! ### The parts of a low tick (rules R400 to R402, R406) -/

section
variable {s : State}

/-- The state with the speed that a low tick works with. -/
def measured (s : State) : State := { s with speed := { s.speed with meas := tickSpeed s } }

theorem measureSpeed_eq_measured (s : State) : measureSpeed s = measured s := by
  unfold measureSpeed measured tickSpeed
  split <;> rfl

/-- Without a valid BEMF the measurement is held. -/
theorem measured_of_invalid (h : s.bemf.valid = false) : measured s = s := by
  rw [← measureSpeed_eq_measured]
  exact if_neg (by simp [h])

theorem rampTarget_of_closedLoop (h : s.ctl.mode = .closedLoop) :
    rampTarget s = { s with speed := { s.speed with
      target := slew s.speed.target s.speed.cmd (F32.ofWord s.cfg.speedSlopeRpm) } } := by
  rw [rampTarget, h]

theorem rampTarget_of_mode_ne (h : s.ctl.mode ≠ .closedLoop) :
    rampTarget s = { s with speed := { s.speed with target := ⟨0⟩ } } := by
  unfold rampTarget
  cases hmode : s.ctl.mode with
  | stopped | openLoop => rfl
  | closedLoop => exact absurd hmode h

theorem regulate_of_mode_ne (h : s.ctl.mode ≠ .closedLoop) : regulate s = s := if_neg fun hrun => h hrun.1

theorem regulate_of_invalid (h : s.bemf.valid = false) : regulate s = s := if_neg (by simp [h])

theorem regulate_of_valid (hmode : s.ctl.mode = .closedLoop) (hvalid : s.bemf.valid = true) :
    regulate s =
      let p := pidStep s.cfg s.pid s.speed.target s.speed.meas
      { s with pid := p, speed := { s.speed with duty := p.lastOut } } :=
  if_pos ⟨hmode, hvalid⟩

/-! ### The low tick (rules R400, R403) -/

theorem reversalDue_measureSpeed_iff (s : State) : reversalDue (measureSpeed s) = true ↔ ReversalDue s := by
  rw [measureSpeed_eq_measured]
  exact reversalDue_iff _

theorem exec_lowTick_of_due (h : ReversalDue s) :
    exec .lowTick s = .next (reversal s.env.time (measured s)) := by
  rw [exec, execLowTick]
  rw [if_pos ((reversalDue_measureSpeed_iff s).mpr h), measureSpeed_eq_measured]
  rfl

theorem exec_lowTick_of_not_due (h : ¬ReversalDue s) :
    exec .lowTick s = .next (regulate (rampTarget (measured s))) := by
  rw [exec, execLowTick]
  rw [if_neg (mt (reversalDue_measureSpeed_iff s).mp h), measureSpeed_eq_measured]

theorem flipDir_eq (d : Dir) : flipDir d = if d = .cw then .ccw else .cw := by cases d <;> rfl

/-- A reversal as one update: the start of a run at the stopped state with the direction and the command set. -/
theorem reversal_eq (t : Word) (s : State) :
    reversal t s = runStarted t { stoppedBy .reversal s with
      speed := { (stoppedBy .reversal s).speed with
        motorDir := (if s.speed.motorDir = .cw then .ccw else .cw), cmd := s.speed.revBuf } } := by
  rw [reversal, safetyStop_eq, startRun_eq, applyReversal, flipDir_eq]
  rfl

end

/-- Settles O28: the stop clears the measurement that made the reversal due, so no trace of it is left. -/
theorem lowTickReverses : Obligations.LowTickReverses := by
  intro s hdue stopped
  rw [exec_lowTick_of_due hdue, reversal_eq]
  rfl

/-- Settles O27: outside ClosedLoop only the measurement and the cleared target are left; in ClosedLoop the target
slews, and the PID runs if BEMF is valid. -/
theorem lowTickRegulates : Obligations.LowTickRegulates := by
  intro s hdue m slope x c target e integ dterm u
  rw [exec_lowTick_of_not_due hdue]
  refine ⟨fun hmode => ?outside, fun hmode hvalid => ?held, fun hmode hvalid => ?run⟩
  case outside =>
    rw [regulate_of_mode_ne (s := rampTarget (measured s)) hmode, rampTarget_of_mode_ne (s := measured s) hmode]
    rfl
  case held =>
    rw [measured_of_invalid hvalid, regulate_of_invalid (s := rampTarget s) hvalid, rampTarget_of_closedLoop hmode]
    rfl
  case run =>
    rw [regulate_of_valid (s := rampTarget (measured s)) hmode hvalid, rampTarget_of_closedLoop (s := measured s) hmode]
    rfl

/-! ### Zeros in sums and products (rule R14) -/

theorem isFinite_of_isZero {x : F32} (h : x.isZero = true) : x.isFinite = true := by
  have hmag : x.magnitude = 0 := of_decide_eq_true h
  rw [F32.isFinite, hmag]
  rfl

theorem isZero_mul {a b : F32} (ha : a.isZero = true) (hb : b.isFinite = true) : (F32.mul a b).isZero = true := by
  rw [F32.mul_of_finite (isFinite_of_isZero ha) hb, (F32.isZero_iff_mant a).mp ha, Nat.zero_mul, F32.round, if_pos rfl,
    F32.zero, F32.isZero, (F32.pack_parts _ 0 (by norm_num)).1]
  rfl

/-- A sum of zeros is `+0` unless both are `-0`. -/
theorem add_isZero {a b : F32} (ha : a.isZero = true) (hb : b.isZero = true)
    (hsign : a.sign = false ∨ b.sign = false) : F32.add a b = ⟨0⟩ := by
  have hsum : signedValue a + signedValue b = 0 := by
    rw [(signedValue_eq_zero_iff a).mpr ha, (signedValue_eq_zero_iff b).mpr hb, add_zero]
  rw [add_eq_zero (isFinite_of_isZero ha) (isFinite_of_isZero hb) hsum, if_neg]
  rintro ⟨hsa, hsb⟩
  rcases hsign with h | h
  · rw [h] at hsa; cases hsa
  · rw [h] at hsb; cases hsb

/-! ### `clampf` (rule R15) -/

theorem lt_eq_false_of_le {a b : F32} (h : F32.le b a = true) : F32.lt a b = false := by
  obtain ⟨_, _, hkey⟩ := (F32.ge_iff a b).mp h
  simp [F32.lt, hkey]

theorem clampf_of_between {x lo hi : F32} (hlo : F32.le lo x = true) (hhi : F32.ge hi x = true) :
    F32.clampf x lo hi = x := by
  rw [F32.clampf, lt_eq_false_of_le hlo, F32.gt, lt_eq_false_of_le hhi]
  rfl

theorem clampf_of_lt {x lo : F32} (h : F32.lt x lo = true) (hi : F32) : F32.clampf x lo hi = lo := if_pos h

/-! ### A PID step with zero gains (rule R406) -/

/-- The word of a zero gain is the datum `+0`. -/
theorem ofWord_zero : F32.ofWord 0 = ⟨0⟩ := by decide

theorem posFinite_iff (v : Word) :
    posFinite v = true ↔ (F32.ofWord v).isFinite = true ∧ F32.gt (F32.ofWord v) ⟨0⟩ = true := Bool.and_eq_true_iff

section
variable {c : Cfg} {p : Pid} {e : F32}

/-- A zero integral gain leaves a reset integral at `+0`, whatever the error. -/
theorem pidIntegral_of_zero_gain (hki : c.pidKi = 0) (hinteg : p.integ = ⟨0⟩) (he : e.isFinite = true)
    (hts : (F32.ofWord c.pidTsS).isFinite = true) (hmin : F32.le (F32.ofWord c.pidIMin) ⟨0⟩ = true)
    (hmax : F32.ge (F32.ofWord c.pidIMax) ⟨0⟩ = true) : pidIntegral c p e = ⟨0⟩ := by
  have hproduct : (F32.mul (F32.mul ⟨0⟩ e) (F32.ofWord c.pidTsS)).isZero = true := isZero_mul (isZero_mul rfl he) hts
  rw [pidIntegral, hki, hinteg, ofWord_zero, add_isZero rfl hproduct (.inl rfl), clampf_of_between hmin hmax]

/-- With zero gains and the integral at `+0`, the sum of the three terms is `+0`, which a positive minimum replaces. -/
theorem pidOutput_of_zero_gains (hkp : c.pidKp = 0) (hkd : c.pidKd = 0) (hintegral : pidIntegral c p e = ⟨0⟩)
    (he : e.isFinite = true) (hd : (F32.div (F32.sub e p.prevErr) (F32.ofWord c.pidTsS)).isFinite = true)
    (hmin : F32.gt (F32.ofWord c.pidOutMin) ⟨0⟩ = true) : pidOutput c p e = F32.ofWord c.pidOutMin := by
  have hproportional : (F32.mul ⟨0⟩ e).isZero = true := isZero_mul rfl he
  have hderivative : (F32.mul ⟨0⟩ (F32.div (F32.sub e p.prevErr) (F32.ofWord c.pidTsS))).isZero = true :=
    isZero_mul rfl hd
  rw [pidOutput, hkp, hkd, hintegral, ofWord_zero, add_isZero hproportional rfl (.inr rfl),
    add_isZero rfl hderivative (.inl rfl), clampf_of_lt hmin]

end

/-- Settles O58: the integral stays at `+0`, so the output is the minimum. -/
theorem zeroGainOutputIsMinimum : Obligations.ZeroGainOutputIsMinimum := by
  intro c p sp pv hkp hki hkd hinteg hprev he hd hts hout hmin hmax
  obtain ⟨htsFinite, _⟩ := (posFinite_iff _).mp hts
  obtain ⟨_, houtPos⟩ := (posFinite_iff _).mp hout
  rw [← hprev] at hd
  exact pidOutput_of_zero_gains hkp hkd (pidIntegral_of_zero_gain hki hinteg he htsFinite hmin hmax) he hd houtPos

end Sys2Proof.Machine
end

section
/-! A latched fault keeps the outputs off (rules R480, R481, R485): while it is latched the core is in Stopped, where
every command that would drive a phase is refused and no tick or expiry has anything to run.  An event that does drive a
phase therefore finds no fault latched, and latches none. -/

namespace Sys2Proof.Machine

theorem firstError_eq_ok_of_mem {c : CmdErr} {l : List CmdErr} (h : firstError l = .ok) (hmem : c ∈ l) : c = .ok := by
  induction l with
  | nil => cases hmem
  | cons d l ih =>
    obtain rfl : d = .ok := firstError_cons_eq_ok h
    rcases List.mem_cons.mp hmem with hc | hc
    · exact hc
    · exact ih h hc

/-! ### The latch under the procedures that drive a phase -/

theorem setSpeed_faultLatched (t : Word) (x : F32) (s : State) :
    (setSpeed t x s).ctl.faultLatched = s.ctl.faultLatched := by
  unfold setSpeed
  dsimp only
  split
  · split
    · rfl
    · simp [beginRun]
  all_goals
    split
    · rfl
    · split <;> rfl

theorem rampStep_faultLatched (t : Word) (s : State) : (rampStep t s).ctl.faultLatched = s.ctl.faultLatched := by
  rcases rampStep_cases t s with ⟨f, d, h⟩ | ⟨_, h⟩ | ⟨_, h⟩ <;> rw [h]
  · rw [advance_ctl]; rfl
  · rw [safetyStop_ctl]; rfl
  · rfl

theorem handoverPlan_faultLatched (t : Word) (s : State) :
    (handoverPlan t s).ctl.faultLatched = s.ctl.faultLatched := by
  unfold handoverPlan
  dsimp only
  split
  · rw [handoverFire_ctl]; rfl
  · rfl

theorem handoverEval_faultLatched (t : Word) (s : State) :
    (handoverEval t s).ctl.faultLatched = s.ctl.faultLatched := by
  unfold handoverEval
  dsimp only
  split
  · split
    · rfl
    · exact handoverPlan_faultLatched t _
  · rfl

theorem smFast_faultLatched (t : Word) (s : State) : (smFast t s).ctl.faultLatched = s.ctl.faultLatched := by
  unfold smFast
  split
  · split
    · rfl
    · dsimp only
      split
      · exact handoverEval_faultLatched t _
      · rfl
    · unfold clZc
      split <;> rfl
  · rfl

/-- The stall check ends a run and latches no fault (rule R343). -/
theorem stallCheck_faultLatched (t : Word) (s : State) :
    (stallCheck t s).ctl.faultLatched = s.ctl.faultLatched := by
  rcases stallCheck_cases t s with h | ⟨_, h⟩ <;> rw [h]
  rw [safetyStop_ctl]

theorem bemfProcess_ctl (fp : CPhase) (t : Word) (s : State) : (bemfProcess fp t s).ctl = s.ctl := by
  rw [bemfProcess_frame]

/-! ### The rules of the invariant -/

theorem faultOff_of_clear {s : State} (h : s.ctl.faultLatched = false) : FaultOff s :=
  fun hlatched => absurd hlatched (by simp [h])

theorem faultOff_of_runEnded {s : State} (h : RunEnded s) : FaultOff s := by
  obtain ⟨hmode, hphases, _, _, _, _, _, hramp, _⟩ := h
  exact fun _ => ⟨hmode, hphases, hramp⟩

namespace FaultOff

variable {s : State}

/-- An event keeps the invariant when it latches no fault, drives no phase, starts no ramp and stays in Stopped. -/
theorem mono (hs : FaultOff s) {t : State} (hlatch : t.ctl.faultLatched = true → s.ctl.faultLatched = true)
    (hmode : s.ctl.mode = .stopped → t.ctl.mode = .stopped) (hphases : AllHiZ s → AllHiZ t)
    (hramp : s.ramp.active = false → t.ramp.active = false) : FaultOff t := fun hlatched => by
  obtain ⟨hs1, hs2, hs3⟩ := hs (hlatch hlatched)
  exact ⟨hmode hs1, hphases hs2, hramp hs3⟩

/-- Outside Stopped no fault is latched. -/
theorem clear_of_mode (hs : FaultOff s) (hmode : s.ctl.mode ≠ .stopped) : s.ctl.faultLatched = false := by
  by_contra hlatched
  obtain ⟨hstopped, _⟩ := hs (by simpa using hlatched)
  exact hmode hstopped

/-- While a ramp is active no fault is latched. -/
theorem clear_of_ramp (hs : FaultOff s) (hactive : s.ramp.active = true) : s.ctl.faultLatched = false := by
  by_contra hlatched
  obtain ⟨_, _, hidle⟩ := hs (by simpa using hlatched)
  rw [hactive] at hidle
  cases hidle

/-! ### The commands -/

theorem withStatus (hs : FaultOff s) (opc : BitVec 8) (code : CmdErr) : FaultOff (withStatus opc code s) :=
  hs.mono id id id id

/-- A command keeps the invariant when its effect does, once its checks have passed. -/
theorem command (hs : FaultOff s) {opc : BitVec 8} {checks : List CmdErr} {effect : State → State} {t : State}
    (h : command opc checks effect s = .next t) (heffect : FaultOff (effect s)) : FaultOff t := by
  rcases command_cases h with ⟨_, ho⟩ | ⟨_, ho⟩ <;> cases ho
  · exact heffect.withStatus _ _
  · exact hs.withStatus _ _

/-- A command that is refused while a fault is latched keeps the invariant whatever it drives, if it latches none. -/
theorem energising_command (hs : FaultOff s) {opc : BitVec 8} {checks : List CmdErr} {effect : State → State}
    {t : State} (h : Machine.command opc checks effect s = .next t) (hcheck : faultIfLatched s ∈ checks)
    (hlatch : (effect s).ctl.faultLatched = s.ctl.faultLatched) : FaultOff t := by
  rcases command_cases h with ⟨hok, ho⟩ | ⟨_, ho⟩ <;> cases ho
  · have hclear : s.ctl.faultLatched = false :=
      (faultIfLatched_eq_ok s).mp (firstError_eq_ok_of_mem hok hcheck)
    exact faultOff_of_clear (hlatch.trans hclear)
  · exact hs.withStatus _ _

/-- Every command keeps the invariant: the energising ones are refused while a fault is latched (rule R480). -/
theorem exec_command (hs : FaultOff s) {i : Instr} {t : State} (hi : i.isCommand = true)
    (h : exec i s = .next t) : FaultOff t := by
  cases i with
  | rampStart d =>
    rw [exec] at h
    exact hs.energising_command h (by simp) (by simp)
  | setSpeed =>
    rw [exec] at h
    exact hs.energising_command h (by simp) (setSpeed_faultLatched _ _ s)
  | invCommutate d step =>
    rw [exec, execInvCommutate] at h
    split at h
    · cases h; exact hs.withStatus _ _
    · exact hs.energising_command h (by simp) (by simp)
  | invSetPhase phase st =>
    rw [exec, execInvSetPhase] at h
    split at h
    · exact hs.energising_command h (by simp) rfl
    all_goals cases h; exact hs.withStatus _ _
  | motorStop =>
    rw [exec] at h
    exact hs.command h (faultOff_of_runEnded (safetyStop_runEnded _ s))
  | faultClear =>
    rw [exec] at h
    exact hs.command h (faultOff_of_clear rfl)
  | invDisable =>
    rw [exec] at h
    exact hs.command h (hs.mono id id (fun _ => rfl) id)
  | rampStop =>
    rw [exec] at h
    exact hs.command h (hs.mono id id (fun _ => rfl) (fun _ => rfl))
  | rampStopSoft =>
    rw [exec] at h
    exact hs.command h (hs.mono id id id (fun _ => rfl))
  | nop | bemfInit | bemfReset | bemfClearFlag | bemfGetStatus | schedStart | schedCancel | schedIsActive | rampGetState
  | setSlope | pidReset | telemetry | clearSticky =>
    rw [exec] at h
    exact hs.command h (hs.mono id id id id)
  | _ => cases hi

/-! ### The ticks -/

/-- In Stopped a fast tick processes the sample only; outside it no fault is latched. -/
theorem exec_fastTick (hs : FaultOff s) {t : State} (h : exec .fastTick s = .next t) : FaultOff t := by
  by_cases hmode : s.ctl.mode = .stopped
  · rw [fastTick_of_stopped hmode, bemfProcess_frame] at h
    cases h
    exact hs.mono id id id id
  · cases h
    refine faultOff_of_clear ?_
    rw [stallCheck_faultLatched, smFast_faultLatched, bemfProcess_ctl, hs.clear_of_mode hmode]

theorem regulate (hs : FaultOff s) : FaultOff (regulate s) := by
  unfold Machine.regulate
  split
  · exact hs.mono id id id id
  · exact hs

/-- A reversal is due outside Stopped only (rule R400). -/
theorem exec_lowTick (hs : FaultOff s) {t : State} (h : exec .lowTick s = .next t) : FaultOff t := by
  by_cases hdue : ReversalDue s
  · rw [exec_lowTick_of_due hdue] at h
    cases h
    obtain ⟨_, hmode, _⟩ := hdue
    refine faultOff_of_clear ?_
    rw [reversal_ctl]
    exact hs.clear_of_mode hmode
  · rw [exec_lowTick_of_not_due hdue] at h
    cases h
    have htarget : FaultOff (rampTarget (measured s)) := hs.mono id id id id
    exact htarget.regulate

/-! ### The expiry -/

/-- Every callback that drives a phase is guarded by a running mode or an active ramp (rule R253). -/
theorem dispatch (hs : FaultOff s) (tag : Tag) (t : Word) : FaultOff (dispatch tag t s) := by
  rcases dispatch_cases tag t s with
    ⟨rfl, hguard, h⟩ | ⟨rfl, hguard, h⟩ | ⟨rfl, hguard, h⟩ | ⟨rfl, hguard, h⟩ | ⟨_, h⟩ | ⟨_, h⟩ <;> rw [h]
  · obtain ⟨hmode, _⟩ := hguard
    exact faultOff_of_clear (by rw [alignDone_ctl]; exact hs.clear_of_mode (by simp [hmode]))
  · exact faultOff_of_clear (by rw [rampStep_faultLatched]; exact hs.clear_of_ramp hguard)
  · obtain ⟨hmode, _⟩ := hguard
    exact faultOff_of_clear (by rw [handoverFire_ctl]; exact hs.clear_of_mode (by simp [hmode]))
  · obtain ⟨hmode, _⟩ := hguard
    exact faultOff_of_clear (by rw [clFire_ctl]; exact hs.clear_of_mode (by simp [hmode]))
  · exact hs.mono id id id id
  · exact hs

theorem execTimerExpire (hs : FaultOff s) {t : State} (h : execTimerExpire s = .next t) : FaultOff t := by
  have hcancel : FaultOff (schedCancel s) := hs.mono id id id id
  rcases execTimerExpire_cases s with ⟨_, _, ho⟩ | ⟨_, _, ho⟩ | ⟨_, ho⟩ <;> rw [ho] at h <;> cases h
  exact hcancel.dispatch _ _

/-! ### Every event -/

theorem respond (hs : FaultOff s) (data : Word) (error : Bool) : FaultOff (respond data error s) :=
  hs.mono id id id id

theorem memWrite (hs : FaultOff s) (off : ℕ) (v : Word) : FaultOff (memWrite off v s) := by
  unfold Machine.memWrite
  split
  · rw [writeReg_frame]
    exact hs.mono id id id id
  · exact hs

/-- A write to `CMD` does what its command does; a write elsewhere reaches operands and configuration only. -/
theorem execHostWrite (hs : FaultOff s) {off v : Word} {n : AccessWidth} {t : State}
    (h : execHostWrite off v n s = .next t) : FaultOff t := by
  rcases execHostWrite_cases off v n s with ⟨_, ho⟩ | ⟨_, _, ho⟩ | ⟨_, _, ho⟩ <;> rw [ho] at h
  · cases h; exact hs.respond _ _
  · rcases runCommandWord_cases v (Machine.respond 0 false s) with ⟨_, _, hw⟩ | ⟨i, _, hi, hw⟩ | ⟨_, _, _, hw⟩ <;>
      rw [hw] at h
    · cases h; exact (hs.respond _ _).withStatus _ _
    · exact (hs.respond _ _).exec_command hi h
    · cases h; exact (hs.respond _ _).withStatus _ _
  · cases h; exact (hs.respond _ _).memWrite _ _

/-- Every event keeps the invariant; `FAULT_IN` latches the fault after the safety stop (rule R485). -/
theorem exec (hs : FaultOff s) {i : Instr} {t : State} (h : exec i s = .next t) : FaultOff t := by
  by_cases hi : i.isCommand = true
  · exact hs.exec_command hi h
  cases i with
  | reset => cases h; exact faultOff_of_clear rfl
  | adcSample => cases h; exact hs.mono id id id id
  | fastTick => exact hs.exec_fastTick h
  | lowTick => exact hs.exec_lowTick h
  | timerExpire => exact hs.execTimerExpire h
  | faultIn => cases h; exact faultOff_of_runEnded (safetyStop_runEnded .hardwareFault s)
  | hostWrite => exact hs.execHostWrite h
  | hostRead off n =>
    rw [Machine.exec, execHostRead] at h
    split at h <;> cases h <;> exact hs.respond _ _
  | timeAdvance => cases h; exact hs
  | _ => exact absurd rfl hi

end FaultOff

/-- Settles O42. -/
theorem faultedOutputsStayOff : Obligations.FaultedOutputsStayOff := by
  intro s t hs h
  rcases step_next_cases h with rfl | hexpire | ⟨r, rest, i, _, _, hexec⟩
  · exact hs
  · exact hs.execTimerExpire hexpire
  · have htaken : FaultOff (takeInput r.t rest s) := hs.mono id id id id
    exact htaken.exec hexec

end Sys2Proof.Machine
end

section
/-! The error table of the commands (rules R480, R481): every word written to `CMD` completes with its opcode and the
first error that applies, and a refused one writes `CMD_STATUS` only. -/

namespace Sys2Proof.Machine

/-! ### The checks in the order of rule R481 -/

theorem firstError_busyUnlessStopped_cons (s : State) (l : List CmdErr) :
    firstError (busyUnlessStopped s :: l) = if s.ctl.mode = .stopped then firstError l else .busy := by
  unfold busyUnlessStopped
  cases s.ctl.mode <;> rfl

theorem firstError_faultIfLatched_cons (s : State) (l : List CmdErr) :
    firstError (faultIfLatched s :: l) = if s.ctl.faultLatched = true then .fault else firstError l := by
  unfold faultIfLatched
  cases s.ctl.faultLatched <;> rfl

theorem firstError_notReadyUnlessInit_cons (s : State) (l : List CmdErr) :
    firstError (notReadyUnlessInit s :: l) = if s.bemf.initDone = false then .notReady else firstError l := by
  unfold notReadyUnlessInit
  cases s.bemf.initDone <;> rfl

theorem firstError_badArgIf_cons (bad : Bool) (l : List CmdErr) :
    firstError (badArgIf bad :: l) = if bad = true then .badArg else firstError l := by
  cases bad <;> rfl

/-! ### Operands out of range (rules R255, R409, R410) -/

theorem isFinite_eq_false_iff (x : F32) : x.isFinite = false ↔ x.isNaN = true ∨ x.isInf = true := by
  simp only [F32.isFinite, F32.isNaN, F32.isInf, decide_eq_false_iff_not, decide_eq_true_eq]
  omega

/-- A slope is refused when it is negative, a NaN or infinite (rule R409). -/
theorem nonnegFinite_eq_false_iff (w : Word) :
    nonnegFinite w = false ↔ F32.ge (F32.ofWord w) ⟨0⟩ = false ∨ (F32.ofWord w).isInf = true := by
  constructor
  · intro h
    by_contra hnot
    push Not at hnot
    obtain ⟨hge, hinf⟩ := hnot
    have hlegal : nonnegFinite w = true := nonnegFinite_of_ge_zero (by simpa using hge) (by simpa using hinf)
    rw [h] at hlegal
    cases hlegal
  · rintro (hge | hinf)
    · rw [nonnegFinite, hge, Bool.and_false]
    · rw [nonnegFinite, (isFinite_eq_false_iff _).mpr (.inr hinf), Bool.false_and]

/-! ### The checks of each command are its row of the table -/

theorem expectedCode_of_unchecked {i : Instr} (hd : isDiagnostic i = false) (he : isEnergising i = false)
    (hspeed : i ≠ .setSpeed) (hslope : i ≠ .setSlope) (s : State) : expectedCode i s = .ok := by
  have hstart : i ≠ .schedStart := by rintro rfl; cases hd
  simp [expectedCode, hd, he, hspeed, hslope, hstart]

theorem expectedCode_of_diagnostic {i : Instr} (hd : isDiagnostic i = true) (he : isEnergising i = false)
    (hstart : i ≠ .schedStart) (s : State) : expectedCode i s = firstError [busyUnlessStopped s] := by
  have hspeed : i ≠ .setSpeed := by rintro rfl; cases hd
  have hslope : i ≠ .setSlope := by rintro rfl; cases hd
  simp [expectedCode, firstError_busyUnlessStopped_cons, hd, he, hspeed, hslope, hstart]

theorem expectedCode_of_diagnostic_energising {i : Instr} (hd : isDiagnostic i = true) (he : isEnergising i = true)
    (s : State) : expectedCode i s = firstError [busyUnlessStopped s, faultIfLatched s] := by
  have hspeed : i ≠ .setSpeed := by rintro rfl; cases hd
  have hslope : i ≠ .setSlope := by rintro rfl; cases hd
  have hstart : i ≠ .schedStart := by rintro rfl; cases he
  simp [expectedCode, firstError_busyUnlessStopped_cons, firstError_faultIfLatched_cons, hd, he, hspeed, hslope, hstart]

theorem expectedCode_schedStart (s : State) :
    expectedCode .schedStart s =
      firstError [busyUnlessStopped s, badArgIf (decide (0x7FFFFFFF < s.iface.arg0))] := by
  simp [expectedCode, isDiagnostic, isEnergising, firstError_busyUnlessStopped_cons, firstError_badArgIf_cons,
    BitVec.lt_def]

theorem expectedCode_setSlope (s : State) :
    expectedCode .setSlope s = firstError [badArgIf (!nonnegFinite s.iface.arg0)] := by
  simp [expectedCode, isDiagnostic, isEnergising, firstError_badArgIf_cons, nonnegFinite_eq_false_iff]

theorem expectedCode_setSpeed (s : State) :
    expectedCode .setSpeed s =
      firstError [faultIfLatched s, notReadyUnlessInit s, badArgIf (!(arg0F32 s).isFinite)] := by
  simp [expectedCode, isDiagnostic, isEnergising, firstError_faultIfLatched_cons, firstError_notReadyUnlessInit_cons,
    firstError_badArgIf_cons, arg0F32, isFinite_eq_false_iff]

/-! ### Every command reports -/

/-- A command at `s` with outcome `o` completes and reports its opcode and a code, and has no other effect when the code
is an error (rule R480). -/
def Reports (opc : BitVec 8) (code : CmdErr) (s : State) (o : Host.Outcome State Fault Refusal) : Prop :=
  ∃ t, o = .next t ∧ t.iface.lastOpc = opc ∧ t.iface.lastErr = code ∧ (code ≠ .ok → t = withStatus opc code s)

/-- A command reports the first error of its checks. -/
theorem command_reports {code : CmdErr} {checks : List CmdErr} (hcode : code = firstError checks) (opc : BitVec 8)
    (effect : State → State) (s : State) : Reports opc code s (command opc checks effect s) := by
  subst hcode
  rcases command_cases (rfl : command opc checks effect s = _) with ⟨hok, ho⟩ | ⟨_, ho⟩ <;> rw [ho]
  · exact ⟨_, rfl, rfl, hok.symm, fun hne => absurd hok hne⟩
  · exact ⟨_, rfl, rfl, rfl, fun _ => rfl⟩

/-- Every well-formed command reports the opcode of its word and the code of the table. -/
theorem exec_command_reports {i : Instr} (hi : i.isCommand = true) (hwf : i.wellFormed = true) (s : State) :
    ∃ opc d step st, encode i = [commandWord opc d step st] ∧ Reports opc (expectedCode i s) s (exec i s) := by
  cases i with
  | nop | bemfClearFlag | bemfGetStatus | schedIsActive | rampGetState | motorStop | faultClear | pidReset | telemetry
  | clearSticky =>
    rw [exec]
    exact ⟨_, _, _, _, rfl, command_reports (expectedCode_of_unchecked rfl rfl (by decide) (by decide) s) _ _ s⟩
  | bemfInit | bemfReset | schedCancel | rampStop | rampStopSoft | invDisable =>
    rw [exec]
    exact ⟨_, _, _, _, rfl, command_reports (expectedCode_of_diagnostic rfl rfl (by decide) s) _ _ s⟩
  | rampStart d =>
    rw [exec]
    exact ⟨_, _, _, _, rfl, command_reports (expectedCode_of_diagnostic_energising rfl rfl s) _ _ s⟩
  | invCommutate d step =>
    have hstep : step.toNat < 6 := Nat.lt_succ_of_le (of_decide_eq_true hwf)
    rw [exec, execInvCommutate, stepOfField, dif_pos hstep]
    exact ⟨_, _, _, _, rfl, command_reports (expectedCode_of_diagnostic_energising rfl rfl s) _ _ s⟩
  | invSetPhase phase st =>
    obtain ⟨hphase, hst⟩ : phase.toNat ≤ 2 ∧ st.toNat ≤ 5 := by simpa [Instr.wellFormed] using hwf
    obtain ⟨p, hp⟩ := exists_hphaseOfField hphase
    obtain ⟨o, ho⟩ := exists_outStateOfField hst
    rw [exec, execInvSetPhase, hp, ho]
    exact ⟨_, _, _, _, rfl, command_reports (expectedCode_of_diagnostic_energising rfl rfl s) _ _ s⟩
  | schedStart =>
    rw [exec]
    exact ⟨_, _, _, _, rfl, command_reports (expectedCode_schedStart s) _ _ s⟩
  | setSlope =>
    rw [exec]
    exact ⟨_, _, _, _, rfl, command_reports (expectedCode_setSlope s) _ _ s⟩
  | setSpeed =>
    rw [exec]
    exact ⟨_, _, _, _, rfl, command_reports (expectedCode_setSpeed s) _ _ s⟩
  | _ => cases hi

/-- The command of a word reports the word's opcode field. -/
theorem reports_of_decodeCommand {w : Word} {i : Instr} (h : decodeCommand w = .ok i) (s : State) :
    Reports (opcField w) (expectedCode i s) s (exec i s) := by
  obtain ⟨hi, hwf, hw⟩ := commandWordsHaveOneMeaning w i h
  obtain ⟨opc, d, step, st, hencode, hreports⟩ := exec_command_reports hi hwf s
  obtain rfl : commandWord opc d step st = w := by rw [hencode] at hw; cases hw; rfl
  rwa [opcField_commandWord]

/-- Settles O11: an illegal word reports `ILLEGAL`, and a legal one what its command reports. -/
theorem commandErrorsFollowTheTable : Obligations.CommandErrorsFollowTheTable := by
  intro w s
  cases hdecode : decodeCommand w with
  | error why =>
    have hrun : exec (.hostWrite 0x004 w .four) s = .next (withStatus (opcField w) .illegal (answered 0 s)) :=
      runCommandWord_of_error hdecode (answered 0 s)
    exact ⟨_, hrun, rfl, fun _ _ => rfl, nofun⟩
  | ok i =>
    obtain ⟨t, hnext, hopc, herr, hrefused⟩ := reports_of_decodeCommand hdecode (answered 0 s)
    refine ⟨t, (commandWriteRunsCommand w i s hdecode).trans hnext, hopc, nofun, fun j hj => ?_⟩
    cases hj
    exact ⟨herr, hrefused⟩

end Sys2Proof.Machine
end

section
/-! What one event does to the core, said once: the effect of each command, of the fast tick, of the low tick and of the
timer expiry, as one update each of the state before, with the condition under which it happens.  The rules about whole
events are case splits over these effects. -/

namespace Sys2Proof.Machine

/-! ### The commands -/

/-- What `SET_SPEED` does to the core: it writes the commanded speed, drops a pending reversal or buffers one while a
motor runs, or begins a run (rule R410). -/
inductive SpeedEffect (t : Word) (s : State) : State → Prop where
  | commanded (v : F32) : SpeedEffect t s { s with speed := { s.speed with cmd := v } }
  | redirected (v w : F32) (pending : Bool) (hmode : s.ctl.mode ≠ .stopped) :
      SpeedEffect t s { s with speed := { s.speed with cmd := v, reversePending := pending, revBuf := w } }
  | begun (d : Dir) (v : F32) (hmode : s.ctl.mode = .stopped) : SpeedEffect t s (beginRun t d v s)

theorem setSpeed_speedEffect (t : Word) (x : F32) (s : State) : SpeedEffect t s (setSpeed t x s) := by
  have hmoving (hmode : s.ctl.mode ≠ .stopped) : SpeedEffect t s (if x.abs.isZero then commandSpeed f32Zero s
      else if speedDir x = s.speed.motorDir then commandSpeed x.abs s else bufferReversal x.abs s) := by
    split
    · exact .redirected _ _ _ hmode
    · split <;> exact .redirected _ _ _ hmode
  unfold setSpeed
  dsimp only
  split
  · next hmode =>
    split
    · exact .commanded _
    · exact .begun _ _ hmode
  · next hmode => exact hmoving (by simp [hmode])
  · next hmode => exact hmoving (by simp [hmode])

/-- What a command does to the core besides writing the interface registers. -/
inductive CommandEffect (s : State) : Instr → State → Prop where
  /-- a command that is refused, or that writes the interface registers only -/
  | kept (i : Instr) : CommandEffect s i s
  /-- the commands on the BEMF Monitor -/
  | monitor (i : Instr) (b : Bemf) (hcount : b.zcCount = s.bemf.zcCount) :
      CommandEffect s i { s with bemf := b }
  | setSlope (v : Word) (hlegal : nonnegFinite v = true) :
      CommandEffect s .setSlope { s with cfg := { s.cfg with speedSlopeRpm := v } }
  | faultClear : CommandEffect s .faultClear { s with ctl := { s.ctl with faultLatched := false } }
  | pidReset : CommandEffect s .pidReset (pidReset s)
  | clearSticky : CommandEffect s .clearSticky { s with adc := { s.adc with overrun := false } }
  | schedStart (d : Word) (hmode : s.ctl.mode = .stopped) :
      CommandEffect s .schedStart (schedStart s.env.time d .user s)
  | schedCancel (hmode : s.ctl.mode = .stopped) : CommandEffect s .schedCancel (schedCancel s)
  | rampStart (d : Dir) (hmode : s.ctl.mode = .stopped) :
      CommandEffect s (.rampStart d) (rampStart s.env.time .host d s)
  | rampStop (hmode : s.ctl.mode = .stopped) : CommandEffect s .rampStop (rampStop s)
  | rampStopSoft (hmode : s.ctl.mode = .stopped) : CommandEffect s .rampStopSoft (rampStopSoft s)
  | invCommutate (d : Dir) (step : BitVec 3) (k : StepIx) (u : F32) (hmode : s.ctl.mode = .stopped) :
      CommandEffect s (.invCommutate d step) (applyCommutation k u d s.env.time s)
  /-- `INV_DISABLE` and `INV_SET_PHASE` -/
  | outputs (i : Instr) (ph : Tri OutState) : CommandEffect s i { s with inv := { s.inv with ph := ph } }
  | setSpeed (u : State) (hu : SpeedEffect s.env.time s u) : CommandEffect s .setSpeed u
  | motorStop : CommandEffect s .motorStop (safetyStop .stopCommand s)

/-- A command runs its effect, once its checks have passed, or is refused; either way it writes the interface registers
last. -/
theorem commandEffect_of_command {opc : BitVec 8} {checks : List CmdErr} {effect : State → State} {i : Instr}
    {s u t : State} (h : command opc checks effect s = .next t)
    (heffect : firstError checks = .ok → CommandEffect s i u ∧ ∃ f, effect s = { u with iface := f }) :
    ∃ u f, CommandEffect s i u ∧ t = { u with iface := f } := by
  rcases command_cases h with ⟨hok, ho⟩ | ⟨_, ho⟩ <;> cases ho
  · obtain ⟨hu, f, hf⟩ := heffect hok
    exact ⟨u, _, hu, by rw [hf]; rfl⟩
  · exact ⟨s, _, .kept i, rfl⟩

theorem stopped_of_firstError {s : State} {l : List CmdErr} (h : firstError (busyUnlessStopped s :: l) = .ok) :
    s.ctl.mode = .stopped :=
  (busyUnlessStopped_eq_ok s).mp (firstError_cons_eq_ok h)

theorem exec_commandEffect {i : Instr} {s t : State} (hi : i.isCommand = true) (h : exec i s = .next t) :
    ∃ u f, CommandEffect s i u ∧ t = { u with iface := f } := by
  cases i with
  | nop | bemfGetStatus | schedIsActive | rampGetState | telemetry =>
    rw [exec] at h
    exact commandEffect_of_command h fun _ => ⟨.kept _, _, rfl⟩
  | bemfInit =>
    rw [exec] at h
    exact commandEffect_of_command h fun _ =>
      ⟨.monitor _ { (bemfReset s).bemf with initDone := true } rfl, s.iface, rfl⟩
  | bemfReset =>
    rw [exec] at h
    exact commandEffect_of_command h fun _ => ⟨.monitor _ (bemfReset s).bemf rfl, s.iface, rfl⟩
  | bemfClearFlag =>
    rw [exec] at h
    exact commandEffect_of_command h fun _ => ⟨.monitor _ (clearZcFlag s).bemf rfl, s.iface, rfl⟩
  | setSlope =>
    rw [exec] at h
    refine commandEffect_of_command h fun hok => ⟨.setSlope s.iface.arg0 ?_, s.iface, rfl⟩
    simpa using (badArgIf_eq_ok _).mp (firstError_cons_eq_ok hok)
  | faultClear =>
    rw [exec] at h
    exact commandEffect_of_command h fun _ => ⟨.faultClear, s.iface, rfl⟩
  | pidReset =>
    rw [exec] at h
    exact commandEffect_of_command h fun _ => ⟨.pidReset, s.iface, rfl⟩
  | clearSticky =>
    rw [exec] at h
    exact commandEffect_of_command h fun _ => ⟨.clearSticky, s.iface, rfl⟩
  | schedStart =>
    rw [exec] at h
    exact commandEffect_of_command h fun hok => ⟨.schedStart s.iface.arg0 (stopped_of_firstError hok), s.iface, rfl⟩
  | schedCancel =>
    rw [exec] at h
    exact commandEffect_of_command h fun hok => ⟨.schedCancel (stopped_of_firstError hok), s.iface, rfl⟩
  | rampStart d =>
    rw [exec] at h
    exact commandEffect_of_command h fun hok => ⟨.rampStart d (stopped_of_firstError hok), s.iface, rfl⟩
  | rampStop =>
    rw [exec] at h
    exact commandEffect_of_command h fun hok => ⟨.rampStop (stopped_of_firstError hok), s.iface, rfl⟩
  | rampStopSoft =>
    rw [exec] at h
    exact commandEffect_of_command h fun hok => ⟨.rampStopSoft (stopped_of_firstError hok), s.iface, rfl⟩
  | invCommutate d step =>
    rw [exec, execInvCommutate] at h
    split at h
    · cases h; exact ⟨s, _, .kept _, rfl⟩
    · exact commandEffect_of_command h fun hok =>
        ⟨.invCommutate d step _ _ (stopped_of_firstError hok), s.iface, rfl⟩
  | invDisable =>
    rw [exec] at h
    exact commandEffect_of_command h fun _ => ⟨.outputs _ (inverterDisable s).inv.ph, s.iface, rfl⟩
  | invSetPhase phase st =>
    rw [exec, execInvSetPhase] at h
    split at h
    · next hp o _ _ =>
      exact commandEffect_of_command h fun _ => ⟨.outputs _ (setH s.inv.ph hp o), s.iface, rfl⟩
    all_goals cases h; exact ⟨s, _, .kept _, rfl⟩
  | setSpeed =>
    rw [exec] at h
    exact commandEffect_of_command h fun _ => ⟨.setSpeed _ (setSpeed_speedEffect _ _ s), _, rfl⟩
  | motorStop =>
    rw [exec] at h
    exact commandEffect_of_command h fun _ => ⟨.motorStop, s.iface, rfl⟩
  | _ => cases hi

/-! ### The fast tick -/

/-- What the state machine does with the crossing flag at time `t` (rules R341, R347, R348, R351). -/
inductive CrossingEffect (t : Word) (s : State) : State → Prop where
  /-- the flag or the streak at most -/
  | noted (b : Bemf) (n : Half) : CrossingEffect t s { s with bemf := b, ho := { s.ho with streak := n } }
  | planned (b : Bemf) (h : Handover) (deadline : Word) (hmode : s.ctl.mode = .openLoop)
      (haligning : s.ctl.aligning = false) :
      CrossingEffect t s { s with
        bemf := b
        ho := h
        comm := { s.comm with transition := true }
        sched := { s.sched with active := true, deadline := deadline, tag := .handover } }
  | fired (b : Bemf) (h : Handover) (hmode : s.ctl.mode = .openLoop) (haligning : s.ctl.aligning = false) :
      CrossingEffect t s (handedOver t { s with bemf := b, ho := h, comm := { s.comm with transition := true } })
  | armed (b : Bemf) (deadline : Word) (hmode : s.ctl.mode = .closedLoop) (hidle : s.comm.armed = false) :
      CrossingEffect t s { s with
        bemf := b
        sched := { s.sched with active := true, deadline := deadline, tag := .clComm }
        comm := { s.comm with armed := true } }

theorem handoverEval_effect {t : Word} {s : State} (hmode : s.ctl.mode = .openLoop)
    (haligning : s.ctl.aligning = false) : CrossingEffect t s (handoverEval t (clearZcFlag s)) := by
  unfold handoverEval
  dsimp only
  split
  · split
    · exact .noted _ _
    · unfold handoverPlan
      dsimp only
      split
      · rw [handoverFire_eq]
        exact .fired _ _ hmode haligning
      · exact .planned _ _ _ hmode haligning
  · exact .noted _ _

theorem smFast_effect (t : Word) (s : State) : CrossingEffect t s (smFast t s) := by
  unfold smFast
  split
  · split
    · exact .noted _ _
    · next hmode =>
      dsimp only
      split
      · next hramp =>
        obtain ⟨haligning, _⟩ := (ramping_iff _).mp hramp
        exact handoverEval_effect hmode haligning
      · exact .noted _ _
    · next hmode =>
      unfold clZc
      split
      · next harm =>
        obtain ⟨_, hidle⟩ := harm
        exact .armed _ _ hmode hidle
      · exact .noted _ _
  · exact .noted _ _

/-- The stall timeout has passed since the last commutation of a motor in ClosedLoop (rule R343). -/
def Stalled (t : Word) (s : State) : Prop :=
  s.ctl.mode = .closedLoop ∧ s.cfg.clStallTimeoutUs ≠ 0 ∧ s.cfg.clStallTimeoutUs.toNat < (t - s.comm.lastComm).toNat

/-- What a fast tick does (rule R340): BEMF processing gives the monitor and the sample buffer new values, and the state
machine uses the crossing, unless the motor is stalled. -/
inductive FastTickEffect (s : State) : State → Prop where
  | ran (a : Adc) (b : Bemf) (u : State) (hu : CrossingEffect s.env.time { s with adc := a, bemf := b } u) :
      FastTickEffect s u
  | stalled (a : Adc) (b : Bemf) (h : Handover) (c : Sched) (armed : Bool) (hstalled : Stalled s.env.time s) :
      FastTickEffect s (safetyStop .stallTimeout { s with
        adc := a, bemf := b, ho := h, sched := c, comm := { s.comm with armed := armed } })

/-- The stall check after the state machine stops only a motor that was in ClosedLoop before the tick. -/
theorem stallCheck_effect {s u : State} {a : Adc} {b : Bemf}
    (hu : CrossingEffect s.env.time { s with adc := a, bemf := b } u) :
    FastTickEffect s (stallCheck s.env.time u) := by
  by_cases hstall : Stalled s.env.time u
  · have hstop : stallCheck s.env.time u = safetyStop .stallTimeout u := if_pos hstall
    rw [hstop]
    cases hu with
    | noted b' n => exact .stalled a b' _ s.sched s.comm.armed hstall
    | armed b' deadline => exact .stalled a b' s.ho _ true hstall
    | planned _ _ _ hmode =>
      obtain ⟨hclosed, _⟩ := hstall
      have hopen : s.ctl.mode = .closedLoop := hclosed
      rw [hmode] at hopen
      cases hopen
    | fired b' h hmode haligning =>
      rw [← hstop]
      have hkept := stallCheck_of_lastComm (t := s.env.time) (s := handedOver s.env.time { s with
        adc := a, bemf := b', ho := h, comm := { s.comm with transition := true } }) rfl
      exact hkept.symm ▸ .ran a b _ (.fired b' h hmode haligning)
  · have hkept : stallCheck s.env.time u = u := if_neg hstall
    rw [hkept]
    exact .ran a b u hu

theorem exec_fastTick_effect {s t : State} (h : exec .fastTick s = .next t) : FastTickEffect s t := by
  rw [exec_fastTick] at h
  obtain ⟨adc, bemf, hu⟩ := bemfProcess_eq_with s.comm.float s.env.time s
  rw [hu] at h
  cases h
  exact stallCheck_effect (smFast_effect _ _)

/-! ### The low tick -/

/-- What a low tick does (rule R400): it completes a due reversal, or writes the measurement, the target and, with the
PID, the duty. -/
inductive LowTickEffect (s : State) : State → Prop where
  | reversed (hdue : ReversalDue s) : LowTickEffect s (reversal s.env.time (measured s))
  | regulated (target duty : F32) (p : Pid) :
      LowTickEffect s { s with
        speed := { s.speed with meas := tickSpeed s, target := target, duty := duty }
        pid := p }

theorem exec_lowTick_effect {s t : State} (h : exec .lowTick s = .next t) : LowTickEffect s t := by
  by_cases hdue : ReversalDue s
  · rw [exec_lowTick_of_due hdue] at h
    cases h
    exact .reversed hdue
  · rw [exec_lowTick_of_not_due hdue] at h
    cases h
    unfold regulate
    split <;> exact .regulated _ _ _

/-! ### The expiry -/

/-- The state machine's ramp reaches its total time with the step that ends (rules R283, R284). -/
def RampDone (s : State) : Prop := rampTotal s.ramp.ctx ≤ (satadd32 s.ramp.elapsed s.ramp.lastDelay).toNat

/-- What the expiry of a pending event does, from the emptied slot (rules R252, R253). -/
inductive ExpiryEffect (s : State) : State → Prop where
  | skipped (hguard : ¬guardHolds s.sched.tag s) : ExpiryEffect s (schedCancel s)
  | aligned (htag : s.sched.tag = .alignDone) (hmode : s.ctl.mode = .openLoop) :
      ExpiryEffect s (alignDone s.sched.deadline (schedCancel s))
  | advanced (f d : F32) (htag : s.sched.tag = .rampStep) :
      ExpiryEffect s (advance s.sched.deadline f d (addElapsed (schedCancel s)))
  | rampFinished (htag : s.sched.tag = .rampStep) :
      ExpiryEffect s (countRamp (inverterDisable (deactivateRamp (addElapsed (schedCancel s)))))
  | rampEnded (htag : s.sched.tag = .rampStep) (hactive : s.ramp.active = true) (howner : s.ramp.owner = .stateMachine)
      (hdone : RampDone s) :
      ExpiryEffect s (safetyStop .rampEnd (countRamp (inverterDisable (deactivateRamp (addElapsed (schedCancel s))))))
  | handedOver (htag : s.sched.tag = .handover) (hmode : s.ctl.mode = .openLoop) :
      ExpiryEffect s (handoverFire s.sched.deadline (schedCancel s))
  | commutated (htag : s.sched.tag = .clComm) (hmode : s.ctl.mode = .closedLoop) :
      ExpiryEffect s (clFire s.sched.deadline (schedCancel s))
  | counted (htag : s.sched.tag = .user) : ExpiryEffect s (countUser (schedCancel s))

theorem rampStep_effect {s : State} (htag : s.sched.tag = .rampStep) (hactive : s.ramp.active = true) :
    ExpiryEffect s (rampStep s.sched.deadline (schedCancel s)) := by
  by_cases hdone : RampDone s
  · rw [rampStep_of_total_le (s := schedCancel s) hdone]
    cases howner : s.ramp.owner with
    | host =>
      rw [rampFinish_of_host (s := addElapsed (schedCancel s)) howner]
      exact .rampFinished htag
    | stateMachine =>
      rw [rampFinish_of_stateMachine (s := addElapsed (schedCancel s)) howner, ← safetyStop_eq]
      exact .rampEnded htag hactive howner hdone
  · rw [rampStep_of_lt_total (s := schedCancel s) (Nat.lt_of_not_ge hdone)]
    exact .advanced _ _ htag

theorem execTimerExpire_effect {s t : State} (h : execTimerExpire s = .next t) :
    s.sched.active = true ∧ ExpiryEffect s t := by
  rcases execTimerExpire_cases s with ⟨hactive, _, ho⟩ | ⟨_, _, ho⟩ | ⟨_, ho⟩ <;> rw [ho] at h <;> cases h
  refine ⟨hactive, ?_⟩
  rcases dispatch_cases s.sched.tag s.sched.deadline (schedCancel s) with
    ⟨htag, hguard, h⟩ | ⟨htag, hguard, h⟩ | ⟨htag, hguard, h⟩ | ⟨htag, hguard, h⟩ | ⟨htag, h⟩ | ⟨hguard, h⟩ <;> rw [h]
  · rw [htag] at hguard
    obtain ⟨hmode, _⟩ := hguard
    exact .aligned htag hmode
  · rw [htag] at hguard
    exact rampStep_effect htag hguard
  · rw [htag] at hguard
    obtain ⟨hmode, _⟩ := hguard
    exact .handedOver htag hmode
  · rw [htag] at hguard
    obtain ⟨hmode, _⟩ := hguard
    exact .commutated htag hmode
  · exact .counted htag
  · exact .skipped (mt (guardHolds_schedCancel _ s).mpr hguard)

/-! ### Every event -/

/-- What an event does to the core besides writing the interface registers and the bus response. -/
inductive EventEffect (i : Instr) (s : State) : State → Prop where
  | kept : EventEffect i s s
  | command (j : Instr) (u : State) (hj : commandOf i = some j) (hu : CommandEffect s j u) : EventEffect i s u
  | configured (r : Reg) (v : Word) : EventEffect i s { s with cfg := writeCfg r v s.cfg }
  | sampled (a : Adc) : EventEffect i s { s with adc := a }
  | fastTick (u : State) (hi : i = .fastTick) (hu : FastTickEffect s u) : EventEffect i s u
  | lowTick (u : State) (hi : i = .lowTick) (hu : LowTickEffect s u) : EventEffect i s u
  | expired (u : State) (hi : i = .timerExpire) (hactive : s.sched.active = true) (hu : ExpiryEffect s u) :
      EventEffect i s u
  | faulted (hi : i = .faultIn) :
      EventEffect i s { safetyStop .hardwareFault s with
        ctl := { (safetyStop .hardwareFault s).ctl with faultLatched := true } }
  | restarted (hi : i = .reset) : EventEffect i s { State.reset with inst := s.inst, env := s.env }

/-- The event from `s` to `t`: an effect on the core, with the bus response before it and the interface registers
after. -/
def EventRan (i : Instr) (s t : State) : Prop :=
  ∃ data error u f, EventEffect i (respond data error s) u ∧ t = { u with iface := f }

theorem memWrite_effect (i : Instr) (off : ℕ) (v : Word) (s : State) :
    ∃ u f, EventEffect i s u ∧ memWrite off v s = { u with iface := f } := by
  unfold memWrite
  split
  · next r _ =>
    by_cases hr : r ∈ operandRegs
    · refine ⟨s, (writeReg r v s).iface, .kept, ?_⟩
      simp only [operandRegs, List.mem_cons, List.not_mem_nil, or_false] at hr
      rcases hr with rfl | rfl | rfl | rfl <;> rfl
    · exact ⟨_, s.iface, .configured r v, writeReg_of_not_operand hr v s⟩
  · exact ⟨s, s.iface, .kept, rfl⟩

theorem eventRan_of_hostWrite {off v : Word} {n : AccessWidth} {s t : State}
    (h : exec (.hostWrite off v n) s = .next t) : EventRan (.hostWrite off v n) s t := by
  rw [exec] at h
  rcases execHostWrite_cases off v n s with ⟨_, ho⟩ | ⟨hacc, hoff, ho⟩ | ⟨_, _, ho⟩ <;> rw [ho] at h
  · cases h; exact ⟨0, true, _, s.iface, .kept, rfl⟩
  · rcases runCommandWord_cases v (respond 0 false s) with ⟨_, _, hw⟩ | ⟨i, hv, hi, hw⟩ | ⟨_, _, _, hw⟩ <;>
      rw [hw] at h
    · cases h; exact ⟨0, false, _, _, .kept, rfl⟩
    · obtain ⟨u, f, hu, rfl⟩ := exec_commandEffect hi h
      exact ⟨0, false, u, f, .command i u (commandOf_hostWrite hacc hoff hv) hu, rfl⟩
    · cases h; exact ⟨0, false, _, _, .kept, rfl⟩
  · cases h
    obtain ⟨u, f, hu, hwrite⟩ := memWrite_effect (.hostWrite off v n) off.toNat v (respond 0 false s)
    exact ⟨0, false, u, f, hu, hwrite⟩

/-- Everything an event can do. -/
theorem exec_eventRan {i : Instr} {s t : State} (h : exec i s = .next t) : EventRan i s t := by
  have hran {u : State} (hu : EventEffect i s u) : EventRan i s u := ⟨s.env.resp.data, s.env.resp.error, u, u.iface, hu, rfl⟩
  have hanswered (data : Word) (error : Bool) : EventRan i s (respond data error s) :=
    ⟨data, error, respond data error s, s.iface, .kept, rfl⟩
  by_cases hi : i.isCommand = true
  · obtain ⟨u, f, hu, rfl⟩ := exec_commandEffect hi h
    exact ⟨s.env.resp.data, s.env.resp.error, u, f, .command i u (commandOf_of_isCommand hi) hu, rfl⟩
  cases i with
  | reset => cases h; exact hran (.restarted rfl)
  | adcSample => cases h; exact hran (.sampled _)
  | fastTick => exact hran (.fastTick t rfl (exec_fastTick_effect h))
  | lowTick => exact hran (.lowTick t rfl (exec_lowTick_effect h))
  | timerExpire =>
    obtain ⟨hactive, hu⟩ := execTimerExpire_effect h
    exact hran (.expired t rfl hactive hu)
  | faultIn => cases h; exact hran (.faulted rfl)
  | hostWrite => exact eventRan_of_hostWrite h
  | hostRead off n =>
    rw [exec, execHostRead] at h
    split at h <;> cases h <;> exact hanswered _ _
  | timeAdvance => cases h; exact hran .kept
  | _ => exact absurd rfl hi

end Sys2Proof.Machine
end

section
/-! The guard invariants of rule R64, items 2 to 8, are kept by every step.  The callbacks' guards, the mode and the slot
move together: an event either leaves what the items read, or fills or empties the slot while no alignment and no
closed-loop commutation is pending, or begins, hands over or ends a run. -/

namespace Sys2Proof.Machine

/-- In Stopped, with an empty slot, no guard and no ramp, only the committed float is left to the invariant. -/
theorem guardInv_of_runEnded {t : State} (h : RunEnded t) (hfloat : FloatCommitted t) : GuardInv t := by
  obtain ⟨hmode, _, ⟨hactive, htag⟩, haligning, harmed, htransition, hhandover, hramp, hpending, _⟩ := h
  constructor <;>
    simp [AligningPending, ArmedPending, HandoverArmed, TransitionOpen, StoppedClear, SlotTagged, *]

/-- In OpenLoop's alignment, with its end pending and no guard set. -/
theorem guardInv_startRun (t : Word) (s : State) : GuardInv (startRun t s) := by
  constructor <;>
    simp [AligningPending, ArmedPending, HandoverArmed, TransitionOpen, StoppedClear, SlotTagged, FloatCommitted]

/-- In ClosedLoop after the handover, with the first commutation pending. -/
theorem guardInv_handedOver {t : Word} {s : State} (haligning : s.ctl.aligning = false) :
    GuardInv (handedOver t s) := by
  constructor <;>
    simp [AligningPending, ArmedPending, HandoverArmed, TransitionOpen, StoppedClear, SlotTagged, FloatCommitted,
      handedOver, committedComm, haligning]

namespace GuardInv

variable {s : State}

/-- A commutation of the slot's owner aside, the items read the mode, the guards, the slot and the ramp's owner: an event
that keeps these keeps the invariant. -/
theorem congr (h : GuardInv s) {t : State} (hmode : t.ctl.mode = s.ctl.mode) (haligning : t.ctl.aligning = s.ctl.aligning)
    (hcomm : t.comm = s.comm) (hactive : t.sched.active = s.sched.active) (htag : t.sched.tag = s.sched.tag)
    (hpending : t.speed.reversePending = s.speed.reversePending) (hramp : t.ramp = s.ramp) : GuardInv t := by
  obtain ⟨h2, h3, h4, h5, h6, h7, h8⟩ := h
  constructor <;>
    simpa only [AligningPending, ArmedPending, HandoverArmed, TransitionOpen, StoppedClear, SlotTagged, FloatCommitted,
      hmode, haligning, hcomm, hactive, htag, hpending, hramp]

/-- While a run is on, a reversal may be buffered or dropped. -/
theorem redirect (h : GuardInv s) (hmode : s.ctl.mode ≠ .stopped) (x : Speed) : GuardInv { s with speed := x } :=
  { h with stopped := fun hstopped => absurd hstopped hmode }

/-- With no alignment and no commutation pending, the slot may be emptied, or armed for a ramp step or the host, and the
motor commutated, if no ramp of the state machine becomes active. -/
theorem reslot (h : GuardInv s) (haligning : s.ctl.aligning = false) (harmed : s.comm.armed = false) {t : State}
    (hctl : t.ctl = s.ctl) (harmed' : t.comm.armed = s.comm.armed) (htransition : t.comm.transition = s.comm.transition)
    (hhandover : t.comm.handoverArmed = s.comm.handoverArmed) (hpending : t.speed.reversePending = s.speed.reversePending)
    (hramp : t.ramp.active = true ∧ t.ramp.owner = .stateMachine → s.ramp.active = true ∧ s.ramp.owner = .stateMachine)
    (hslot : SlotTagged t) (htag : t.sched.tag ≠ .handover ∧ t.sched.tag ≠ .clComm) (hfloat : FloatCommitted t) :
    GuardInv t where
  aligning := by simp [AligningPending, hctl, haligning]
  armed := by simp [ArmedPending, harmed', harmed, htag]
  handover := by simpa [HandoverArmed, hhandover, harmed'] using h.handover
  transition := by
    obtain ⟨hopen, _⟩ := h.transition
    exact ⟨by rwa [hctl, htransition], fun ⟨_, hh⟩ => absurd hh htag.1⟩
  stopped := fun hmode => by
    rw [hctl] at hmode
    obtain ⟨h1, h2, h3, h4, h5, h6⟩ := h.stopped hmode
    rw [hctl, harmed', htransition, hhandover, hpending]
    exact ⟨h1, h2, h3, h4, h5, mt hramp h6⟩
  slot := hslot
  float := hfloat

theorem aligning_of_tag (h : GuardInv s) (htag : s.sched.tag ≠ .alignDone) : s.ctl.aligning = false := by
  by_contra haligning
  obtain ⟨_, hpending, _⟩ := h.aligning (by simpa using haligning)
  exact htag hpending

theorem armed_of_tag (h : GuardInv s) (htag : s.sched.tag ≠ .clComm) : s.comm.armed = false := by
  by_contra harmed
  obtain ⟨_, _, hpending⟩ := h.armed.mp (by simpa using harmed)
  exact htag hpending

theorem armed_of_mode (h : GuardInv s) (hmode : s.ctl.mode ≠ .closedLoop) : s.comm.armed = false := by
  by_contra harmed
  obtain ⟨hclosed, _⟩ := h.armed.mp (by simpa using harmed)
  exact hmode hclosed

theorem aligning_of_mode (h : GuardInv s) (hmode : s.ctl.mode ≠ .openLoop) : s.ctl.aligning = false := by
  by_contra haligning
  obtain ⟨hopen, _⟩ := h.aligning (by simpa using haligning)
  exact hmode hopen

/-- In Stopped nothing is aligning or armed. -/
theorem idle_of_stopped (h : GuardInv s) (hmode : s.ctl.mode = .stopped) :
    s.ctl.aligning = false ∧ s.comm.armed = false :=
  ⟨h.aligning_of_mode (by simp [hmode]), h.armed_of_mode (by simp [hmode])⟩

/-! ### The commands -/

theorem speedEffect (h : GuardInv s) {t : Word} {u : State} (hu : SpeedEffect t s u) : GuardInv u := by
  cases hu with
  | commanded => exact h.congr rfl rfl rfl rfl rfl rfl rfl
  | redirected _ _ _ hmode => exact h.redirect hmode _
  | begun => exact guardInv_startRun _ _

theorem commandEffect (h : GuardInv s) {i : Instr} {u : State} (hu : CommandEffect s i u) : GuardInv u := by
  cases hu with
  | kept => exact h
  | monitor | setSlope | faultClear | pidReset | clearSticky | outputs => exact h.congr rfl rfl rfl rfl rfl rfl rfl
  | schedStart d hmode =>
    obtain ⟨haligning, harmed⟩ := h.idle_of_stopped hmode
    exact h.reslot haligning harmed rfl rfl rfl rfl rfl id (by simp [SlotTagged]) (by simp) h.float
  | schedCancel hmode =>
    obtain ⟨haligning, harmed⟩ := h.idle_of_stopped hmode
    exact h.reslot haligning harmed rfl rfl rfl rfl rfl id (by simp [SlotTagged]) (by simp) h.float
  | rampStart d hmode =>
    obtain ⟨haligning, harmed⟩ := h.idle_of_stopped hmode
    exact h.reslot haligning harmed (by simp) (by simp) (by simp) (by simp) (by simp) (by simp) (by simp [SlotTagged])
      (by simp) (by simp [FloatCommitted])
  | rampStop hmode | rampStopSoft hmode =>
    obtain ⟨haligning, harmed⟩ := h.idle_of_stopped hmode
    exact h.reslot haligning harmed rfl rfl rfl rfl rfl (by simp) (by simp [SlotTagged]) (by simp) h.float
  | invCommutate =>
    exact { h with float := rfl }
  | setSpeed _ hu => exact h.speedEffect hu
  | motorStop => exact guardInv_of_runEnded (safetyStop_runEnded _ s) h.float

/-! ### The ticks -/

theorem crossingEffect (h : GuardInv s) {t : Word} {u : State} (hu : CrossingEffect t s u) : GuardInv u := by
  cases hu with
  | noted => exact h.congr rfl rfl rfl rfl rfl rfl rfl
  | planned b ho deadline hmode haligning =>
    have harmed : s.comm.armed = false := h.armed_of_mode (by simp [hmode])
    have hhandover : s.comm.handoverArmed = false := by
      by_contra hh
      exact absurd (h.handover (by simpa using hh)) (by simp [harmed])
    exact {
      aligning := by simp [AligningPending, haligning]
      armed := by simp [ArmedPending, harmed]
      handover := by simp [HandoverArmed, hhandover]
      transition := by simp [TransitionOpen, hmode]
      stopped := by simp [StoppedClear, hmode]
      slot := by simp [SlotTagged]
      float := h.float }
  | fired b ho hmode haligning => exact guardInv_handedOver haligning
  | armed b deadline hmode hidle =>
    have haligning : s.ctl.aligning = false := h.aligning_of_mode (by simp [hmode])
    have htransition : s.comm.transition = false := by
      obtain ⟨hopen, _⟩ := h.transition
      by_contra hh
      exact absurd (hopen (by simpa using hh)) (by simp [hmode])
    exact {
      aligning := by simp [AligningPending, haligning]
      armed := by simp [ArmedPending, hmode]
      handover := by simp [HandoverArmed]
      transition := by simp [TransitionOpen, htransition]
      stopped := by simp [StoppedClear, hmode]
      slot := by simp [SlotTagged]
      float := h.float }

theorem fastTickEffect (h : GuardInv s) {u : State} (hu : FastTickEffect s u) : GuardInv u := by
  cases hu with
  | ran a b _ hu =>
    have hprocessed : GuardInv { s with adc := a, bemf := b } := h.congr rfl rfl rfl rfl rfl rfl rfl
    exact hprocessed.crossingEffect hu
  | stalled => exact guardInv_of_runEnded (safetyStop_runEnded _ _) h.float

theorem lowTickEffect (h : GuardInv s) {u : State} (hu : LowTickEffect s u) : GuardInv u := by
  cases hu with
  | reversed => exact guardInv_startRun _ _
  | regulated => exact h.congr rfl rfl rfl rfl rfl rfl rfl

/-! ### The expiry -/

theorem expiryEffect (h : GuardInv s) {u : State} (hu : ExpiryEffect s u) : GuardInv u := by
  cases hu with
  | skipped hguard =>
    have haligning : s.ctl.aligning = false := by
      by_contra hset
      have hset : s.ctl.aligning = true := by simpa using hset
      obtain ⟨hmode, htag, _⟩ := h.aligning hset
      exact hguard (by rw [htag]; exact ⟨hmode, hset⟩)
    have harmed : s.comm.armed = false := by
      by_contra hset
      have hset : s.comm.armed = true := by simpa using hset
      obtain ⟨hmode, _, htag⟩ := h.armed.mp hset
      exact hguard (by rw [htag]; exact ⟨hmode, hset⟩)
    exact h.reslot haligning harmed rfl rfl rfl rfl rfl id (by simp [SlotTagged]) (by simp) h.float
  | aligned htag hmode =>
    have harmed := h.armed_of_tag (by simp [htag])
    have hhandover : s.comm.handoverArmed = false := by
      by_contra hh
      exact absurd (h.handover (by simpa using hh)) (by simp [harmed])
    constructor <;>
      simp [AligningPending, ArmedPending, HandoverArmed, TransitionOpen, StoppedClear, SlotTagged, FloatCommitted,
        hmode, harmed, hhandover]
  | advanced f d htag =>
    exact h.reslot (h.aligning_of_tag (by simp [htag])) (h.armed_of_tag (by simp [htag])) (by simp) (by simp) (by simp)
      (by simp) (by simp) (by simp) (by simp [SlotTagged]) (by simp) (by simp [FloatCommitted])
  | rampFinished htag =>
    exact h.reslot (h.aligning_of_tag (by simp [htag])) (h.armed_of_tag (by simp [htag])) (by simp) (by simp) (by simp)
      (by simp) (by simp) (by simp) (by simp [SlotTagged]) (by simp) (by simpa [FloatCommitted] using h.float)
  | rampEnded =>
    exact guardInv_of_runEnded (safetyStop_runEnded _ _) (by simpa [FloatCommitted] using h.float)
  | handedOver htag hmode =>
    rw [handoverFire_eq]
    exact guardInv_handedOver (h.aligning_of_tag (by simp [htag]))
  | commutated htag hmode =>
    have haligning := h.aligning_of_tag (by simp [htag])
    have htransition : s.comm.transition = false := by
      obtain ⟨hopen, _⟩ := h.transition
      by_contra hh
      exact absurd (hopen (by simpa using hh)) (by simp [hmode])
    constructor <;>
      simp [AligningPending, ArmedPending, HandoverArmed, TransitionOpen, StoppedClear, SlotTagged, FloatCommitted,
        hmode, haligning, htransition]
  | counted htag =>
    exact h.reslot (h.aligning_of_tag (by simp [htag])) (h.armed_of_tag (by simp [htag])) rfl rfl rfl rfl rfl id
      (by simp [SlotTagged]) (by simp) h.float

/-! ### Every event -/

theorem eventEffect (h : GuardInv s) {i : Instr} {u : State} (hu : EventEffect i s u) : GuardInv u := by
  cases hu with
  | kept => exact h
  | command j _ _ hu => exact h.commandEffect hu
  | configured | sampled => exact h.congr rfl rfl rfl rfl rfl rfl rfl
  | fastTick _ _ hu => exact h.fastTickEffect hu
  | lowTick _ _ hu => exact h.lowTickEffect hu
  | expired _ _ _ hu => exact h.expiryEffect hu
  | faulted => exact guardInv_of_runEnded (safetyStop_runEnded .hardwareFault s) h.float
  | restarted => exact guardInv_reset.congr rfl rfl rfl rfl rfl rfl rfl

theorem exec (h : GuardInv s) {i : Instr} {t : State} (ht : exec i s = .next t) : GuardInv t := by
  obtain ⟨data, error, u, f, hu, rfl⟩ := exec_eventRan ht
  have hanswered : GuardInv (respond data error s) := h.congr rfl rfl rfl rfl rfl rfl rfl
  exact (hanswered.eventEffect hu).congr rfl rfl rfl rfl rfl rfl rfl

end GuardInv

/-- Settles O39, by the effect of the event the step runs. -/
theorem guardInvariantKept : Obligations.GuardInvariantKept := by
  refine ⟨guardInv_reset, fun s t hs h => ?_⟩
  rcases step_next_cases h with rfl | hexpire | ⟨r, rest, i, _, _, hexec⟩
  · exact hs
  · exact hs.exec (i := .timerExpire) hexpire
  · have htaken : GuardInv (takeInput r.t rest s) := hs.congr rfl rfl rfl rfl rfl rfl rfl
    exact htaken.exec hexec

end Sys2Proof.Machine
end

section
/-! What single events may change: the configuration registers (rules R44, R409), `STOP_CAUSE` (rule R37), the
commutation context (rules R54, R333), `ZC_COUNT` (rules R215, R216) and `SPEED_MEAS` (rule R404), each read off the
effects of the events. -/

namespace Sys2Proof.Machine

/-! ### The configuration registers (rules R44, R409) -/

namespace CfgLegal

/-- A register with a legal set keeps the configuration legal when a legal value does: any other is ignored. -/
theorem warl {c : Cfg} (h : CfgLegal c) {legal : Bool} {new : Cfg} (hnew : legal = true → CfgLegal new) :
    CfgLegal (warl legal new c) := by
  cases legal with
  | false => exact h
  | true => exact hnew rfl

theorem writeCfg {c : Cfg} (h : CfgLegal c) (r : Reg) (v : Word) : CfgLegal (writeCfg r v c) := by
  have hdelay (hv : isDelay v = true) : v ≤ 0x7FFFFFFF := of_decide_eq_true hv
  cases r with
  | rampFreqStartHz => exact h.warl fun hv => { h with freqStart := hv }
  | rampFreqEndHz => exact h.warl fun hv => { h with freqEnd := hv }
  | rampProfile => exact h.warl fun _ => { h with }
  | rampMinStepUs =>
    refine h.warl fun hv => { h with minStep := ?_ }
    obtain ⟨hlo, hhi⟩ := Bool.and_eq_true_iff.mp hv
    exact ⟨of_decide_eq_true hlo, hdelay hhi⟩
  | alignStep =>
    unfold Machine.writeCfg
    dsimp only
    split
    · exact { h with }
    · exact h
  | alignTimeUs => exact h.warl fun hv => { h with alignTime := hdelay hv }
  | commDelayMinUs => exact h.warl fun hv => { h with commDelayMin := hdelay hv }
  | commDelayMaxUs => exact h.warl fun hv => { h with commDelayMax := hdelay hv }
  | clStallTimeoutUs => exact h.warl fun hv => { h with stallTimeout := hdelay hv }
  | polePairs => exact h.warl fun hv => { h with polePairs := of_decide_eq_true hv }
  | speedSlopeRpm => exact h.warl fun hv => { h with slope := hv }
  | pidTsS => exact h.warl fun hv => { h with sample := hv }
  | pidOutMin => exact h.warl fun hv => { h with outMin := hv }
  | _ => exact { h with }

variable {s : State}

theorem commandEffect (h : CfgLegal s.cfg) {i : Instr} {u : State} (hu : CommandEffect s i u) : CfgLegal u.cfg := by
  cases hu with
  | setSlope v hlegal => exact { h with slope := hlegal }
  | setSpeed _ hu => cases hu <;> simpa [beginRun] using h
  | rampStart => rwa [rampStart_cfg]
  | _ => exact h

theorem fastTickEffect (h : CfgLegal s.cfg) {u : State} (hu : FastTickEffect s u) : CfgLegal u.cfg := by
  cases hu with
  | ran a b _ hu => cases hu <;> exact h
  | stalled => rwa [safetyStop_cfg]

theorem lowTickEffect (h : CfgLegal s.cfg) {u : State} (hu : LowTickEffect s u) : CfgLegal u.cfg := by
  cases hu with
  | reversed => rwa [reversal_cfg]
  | regulated => exact h

theorem expiryEffect (h : CfgLegal s.cfg) {u : State} (hu : ExpiryEffect s u) : CfgLegal u.cfg := by
  cases hu <;> simpa using h

theorem eventEffect (h : CfgLegal s.cfg) {i : Instr} {u : State} (hu : EventEffect i s u) : CfgLegal u.cfg := by
  cases hu with
  | kept | sampled | faulted => exact h
  | command _ _ _ hu => exact h.commandEffect hu
  | configured r v => exact h.writeCfg r v
  | fastTick _ _ hu => exact h.fastTickEffect hu
  | lowTick _ _ hu => exact h.lowTickEffect hu
  | expired _ _ _ hu => exact h.expiryEffect hu
  | restarted => exact cfgLegal_reset

theorem exec (h : CfgLegal s.cfg) {i : Instr} {t : State} (ht : exec i s = .next t) : CfgLegal t.cfg := by
  obtain ⟨data, error, u, f, hu, rfl⟩ := exec_eventRan ht
  exact CfgLegal.eventEffect (s := respond data error s) (u := u) h hu

end CfgLegal

/-- Settles O41, by the effect of the event the step runs. -/
theorem configurationStaysLegal : Obligations.ConfigurationStaysLegal := by
  intro s t hs h
  rcases step_next_cases h with rfl | hexpire | ⟨r, rest, i, _, _, hexec⟩
  · exact hs
  · exact CfgLegal.exec (i := .timerExpire) hs hexpire
  · exact CfgLegal.exec (s := takeInput r.t rest s) hs hexec

/-! ### `STOP_CAUSE` (rule R37) -/

theorem commandEffect_stopCause {i : Instr} {s u : State} (hu : CommandEffect s i u) :
    u.ctl.stopCause = s.ctl.stopCause ∨ (i = .motorStop ∧ u.ctl.stopCause = .stopCommand) := by
  cases hu with
  | motorStop => exact .inr ⟨rfl, rfl⟩
  | setSpeed _ hu =>
    left
    cases hu with
    | commanded | redirected => rfl
    | begun => simp [beginRun]
  | rampStart => left; simp
  | _ => exact .inl rfl

theorem fastTickEffect_stopCause {s u : State} (hu : FastTickEffect s u) :
    u.ctl.stopCause = s.ctl.stopCause ∨ (s.ctl.mode = .closedLoop ∧ u.ctl.stopCause = .stallTimeout) := by
  cases hu with
  | ran a b _ hu => cases hu <;> exact .inl rfl
  | stalled _ _ _ _ _ hstalled =>
    obtain ⟨hmode, _⟩ := hstalled
    exact .inr ⟨hmode, rfl⟩

theorem lowTickEffect_stopCause {s u : State} (hu : LowTickEffect s u) :
    u.ctl.stopCause = s.ctl.stopCause ∨ (s.speed.reversePending = true ∧ u.ctl.stopCause = .reversal) := by
  cases hu with
  | reversed hdue =>
    obtain ⟨hpending, _⟩ := hdue
    exact .inr ⟨hpending, by simp⟩
  | regulated => exact .inl rfl

theorem expiryEffect_stopCause {s u : State} (hu : ExpiryEffect s u) :
    u.ctl.stopCause = s.ctl.stopCause ∨ (s.sched.tag = .rampStep ∧ u.ctl.stopCause = .rampEnd) := by
  cases hu with
  | rampEnded htag => exact .inr ⟨htag, by simp⟩
  | _ => left; simp

/-- What a new code of `STOP_CAUSE` says about the event (rule R37). -/
def CauseNamed (i : Instr) (s : State) : StopCause → Prop
  | .none => i = .reset
  | .stopCommand => commandOf i = some .motorStop
  | .hardwareFault => i = .faultIn
  | .rampEnd => i = .timerExpire ∧ s.sched.tag = .rampStep
  | .stallTimeout => i = .fastTick ∧ s.ctl.mode = .closedLoop
  | .reversal => i = .lowTick ∧ s.speed.reversePending = true

theorem eventEffect_stopCause {i : Instr} {s u : State} (hu : EventEffect i s u) :
    u.ctl.stopCause = s.ctl.stopCause ∨ CauseNamed i s u.ctl.stopCause := by
  cases hu with
  | kept | configured | sampled => exact .inl rfl
  | command j _ hj hu =>
    refine (commandEffect_stopCause hu).imp_right fun ⟨hstop, hcause⟩ => ?_
    rw [hcause]
    rw [hstop] at hj
    exact hj
  | fastTick _ hi hu =>
    refine (fastTickEffect_stopCause hu).imp_right fun ⟨hmode, hcause⟩ => ?_
    rw [hcause]
    exact ⟨hi, hmode⟩
  | lowTick _ hi hu =>
    refine (lowTickEffect_stopCause hu).imp_right fun ⟨hpending, hcause⟩ => ?_
    rw [hcause]
    exact ⟨hi, hpending⟩
  | expired _ hi _ hu =>
    refine (expiryEffect_stopCause hu).imp_right fun ⟨htag, hcause⟩ => ?_
    rw [hcause]
    exact ⟨hi, htag⟩
  | faulted hi => exact .inr hi
  | restarted hi => exact .inr hi

/-- Settles O46: each effect that writes a cause writes the one that names its event. -/
theorem stopCauseRecordsWhy : Obligations.StopCauseRecordsWhy := by
  intro i s t h hchanged
  obtain ⟨data, error, u, f, hu, rfl⟩ := exec_eventRan h
  rcases eventEffect_stopCause hu with hkept | hnamed
  · exact absurd hkept hchanged
  · change CauseNamed i s u.ctl.stopCause at hnamed
    change match u.ctl.stopCause with | _ => _
    revert hnamed
    cases u.ctl.stopCause <;> exact id

/-! ### The commutation context (rules R54, R333) -/

/-- The committed step, direction, float, duty, count and time are what they were. -/
def CommutationKept (c c' : Comm) : Prop :=
  c'.count = c.count ∧ c'.step = c.step ∧ c'.dir = c.dir ∧ c'.float = c.float ∧ c'.duty = c.duty ∧
    c'.lastComm = c.lastComm

/-- One commutation at time `time` was counted, and drives its pattern. -/
def CommutatedAt (time : Word) (s t : State) : Prop :=
  t.comm.count = s.comm.count + 1 ∧ t.comm.float = floatOf t.comm.step t.comm.dir ∧ t.comm.lastComm = time ∧
    t.inv = committedInv s.inst.phaseMap t.comm.step t.comm.duty t.comm.dir

theorem CommutationKept.refl (c : Comm) : CommutationKept c c := ⟨rfl, rfl, rfl, rfl, rfl, rfl⟩

theorem startRun_commutatedAt (t : Word) (s : State) : CommutatedAt t s (startRun t s) := by
  rw [startRun_eq]
  exact ⟨rfl, rfl, rfl, rfl⟩

theorem rampStart_commutatedAt (t : Word) (owner : Owner) (d : Dir) (s : State) :
    CommutatedAt t s (rampStart t owner d s) := by
  rw [rampStart_eq]
  exact ⟨rfl, rfl, rfl, rfl⟩

theorem commandEffect_commutation {i : Instr} {s u : State} (hu : CommandEffect s i u) :
    CommutationKept s.comm u.comm ∨ CommutatedAt s.env.time s u := by
  cases hu with
  | rampStart d => exact .inr (rampStart_commutatedAt _ _ d s)
  | invCommutate d step k duty =>
    rw [applyCommutation_eq]
    exact .inr ⟨rfl, rfl, rfl, rfl⟩
  | setSpeed _ hu =>
    cases hu with
    | commanded | redirected => exact .inl (.refl _)
    | begun => exact .inr (startRun_commutatedAt _ _)
  | _ => exact .inl (.refl _)

theorem fastTickEffect_commutation {s u : State} (hu : FastTickEffect s u) :
    CommutationKept s.comm u.comm ∨ CommutatedAt s.env.time s u := by
  cases hu with
  | ran a b _ hu =>
    cases hu with
    | noted | planned | armed => exact .inl (.refl _)
    | fired => exact .inr ⟨rfl, rfl, rfl, rfl⟩
  | stalled => exact .inl (by simp [CommutationKept])

theorem lowTickEffect_commutation {s u : State} (hu : LowTickEffect s u) :
    CommutationKept s.comm u.comm ∨ CommutatedAt s.env.time s u := by
  cases hu with
  | reversed =>
    rw [reversal_eq]
    exact .inr ⟨rfl, rfl, rfl, rfl⟩
  | regulated => exact .inl (.refl _)

theorem expiryEffect_commutation {s u : State} (hu : ExpiryEffect s u) :
    CommutationKept s.comm u.comm ∨ CommutatedAt s.sched.deadline s u := by
  cases hu with
  | aligned =>
    rw [alignDone_eq]
    exact .inr ⟨rfl, rfl, rfl, rfl⟩
  | advanced =>
    rw [advance_eq]
    exact .inr ⟨rfl, rfl, rfl, rfl⟩
  | handedOver =>
    rw [handoverFire_eq]
    exact .inr ⟨rfl, rfl, rfl, rfl⟩
  | commutated =>
    rw [clFire_eq]
    exact .inr ⟨rfl, rfl, rfl, rfl⟩
  | skipped | rampFinished | rampEnded | counted => exact .inl (by simp [CommutationKept])

/-- The time of an event: its timestamp or, in a callback, the deadline (rules R252, R333). -/
def eventTime (i : Instr) (s : State) : Word := if i = .timerExpire then s.sched.deadline else s.env.time

theorem eventTime_of_input {i : Instr} (hi : i ≠ .timerExpire) (s : State) : eventTime i s = s.env.time := if_neg hi

/-- No command is an expiry. -/
theorem ne_timerExpire_of_commandOf {i j : Instr} (hj : commandOf i = some j) : i ≠ .timerExpire := by
  rintro rfl
  cases hj

theorem eventEffect_commutation {i : Instr} {s u : State} (hu : EventEffect i s u) (hi : i ≠ .reset) :
    CommutationKept s.comm u.comm ∨ CommutatedAt (eventTime i s) s u := by
  cases hu with
  | kept | configured | sampled | faulted => exact .inl (.refl _)
  | command j _ hj hu =>
    rw [eventTime_of_input (ne_timerExpire_of_commandOf hj)]
    exact commandEffect_commutation hu
  | fastTick _ htick hu =>
    rw [eventTime_of_input (by simp [htick])]
    exact fastTickEffect_commutation hu
  | lowTick _ htick hu =>
    rw [eventTime_of_input (by simp [htick])]
    exact lowTickEffect_commutation hu
  | expired _ hexpire _ hu =>
    rw [eventTime, if_pos hexpire]
    exact expiryEffect_commutation hu
  | restarted hreset => exact absurd hreset hi

/-- Settles O49, by the effect of the instruction. -/
theorem commutationsAreCounted : Obligations.CommutationsAreCounted := by
  intro i s t h hi
  obtain ⟨data, error, u, f, hu, rfl⟩ := exec_eventRan h
  exact eventEffect_commutation (s := respond data error s) (u := u) hu hi

/-! ### `ZC_COUNT` (rules R209, R212, R215, R216) -/

/-- BEMF processing changes the count by accepting a crossing only. -/
theorem bemfProcess_zcCount {s : State} {t : Word}
    (h : (bemfProcess s.comm.float t s).bemf.zcCount ≠ s.bemf.zcCount) :
    SampleReady s ∧
      ∃ e, bemfProcess s.comm.float t s = crossingAccepted t e (sampleStored s) := by
  by_cases hcrossing : CrossingPasses s
  · obtain ⟨hready, _⟩ := id hcrossing
    refine ⟨hready, t - s.bemf.lastZc, ?_⟩
    rw [bemfProcess_of_crossing hcrossing] at h ⊢
    cases hbase : s.bemf.baselineDone with
    | false =>
      rw [zcTiming_of_no_baseline (s := sampleStored s) hbase] at h
      exact absurd rfl h
    | true =>
      by_cases hbounds : OutOfBounds s.cfg (t - s.bemf.lastZc)
      · rw [zcTiming_of_outOfBounds (s := sampleStored s) hbase hbounds] at h
        exact absurd rfl h
      · exact zcTiming_of_inBounds (s := sampleStored s) hbase hbounds
  · obtain ⟨prev, prevOk, hbemf⟩ := bemfProcess_bemf_of_no_crossing hcrossing t
    rw [hbemf] at h
    exact absurd rfl h

theorem commandEffect_zcCount {i : Instr} {s u : State} (hu : CommandEffect s i u) :
    u.bemf.zcCount = s.bemf.zcCount := by
  cases hu with
  | monitor _ b hcount => exact hcount
  | setSpeed _ hu =>
    cases hu with
    | commanded | redirected => rfl
    | begun => simp [beginRun]
  | rampStart => simp
  | _ => rfl

theorem lowTickEffect_zcCount {s u : State} (hu : LowTickEffect s u) : u.bemf.zcCount = s.bemf.zcCount := by
  cases hu with
  | reversed => simp [measured]
  | regulated => rfl

theorem expiryEffect_zcCount {s u : State} (hu : ExpiryEffect s u) : u.bemf.zcCount = s.bemf.zcCount := by
  cases hu <;> simp

theorem eventEffect_zcCount {i : Instr} {s u : State} (hu : EventEffect i s u) (hreset : i ≠ .reset)
    (htick : i ≠ .fastTick) : u.bemf.zcCount = s.bemf.zcCount := by
  cases hu with
  | kept | configured | sampled | faulted => rfl
  | command _ _ _ hu => exact commandEffect_zcCount hu
  | fastTick _ hi => exact absurd hi htick
  | lowTick _ _ hu => exact lowTickEffect_zcCount hu
  | expired _ _ _ hu => exact expiryEffect_zcCount hu
  | restarted hi => exact absurd hi hreset

/-- Settles O50: only the BEMF processing of a fast tick accepts a crossing. -/
theorem crossingsAreCounted : Obligations.CrossingsAreCounted := by
  intro i s t h hreset hchanged
  obtain rfl : i = .fastTick := by
    by_contra htick
    obtain ⟨data, error, u, f, hu, rfl⟩ := exec_eventRan h
    exact hchanged (eventEffect_zcCount (s := respond data error s) (u := u) hu hreset htick)
  have hbemf := fastTick_bemf h
  rw [hbemf] at hchanged
  obtain ⟨hready, e, haccepted⟩ := bemfProcess_zcCount hchanged
  rw [hbemf, haccepted]
  exact ⟨rfl, hready, rfl, rfl, rfl, rfl⟩

/-! ### `SPEED_MEAS` (rule R404) -/

/-- What a step may do to `SPEED_MEAS`: keep it, write the measured speed at a low tick with a valid BEMF,
or clear it where a run starts or ends or at `RESET`. -/
def MeasuredOrCleared (i : Instr) (s t : State) : Prop :=
  t.speed.meas = s.speed.meas ∨ (i = .lowTick ∧ s.bemf.valid = true ∧ t.speed.meas = tickSpeed s) ∨
    (t.speed.meas = ⟨0⟩ ∧ (EndsOrStartsRun i s t ∨ i = .reset))

theorem commandEffect_meas {i j : Instr} {s u : State} (hj : commandOf i = some j) (hu : CommandEffect s j u) :
    MeasuredOrCleared i s u := by
  cases hu with
  | setSpeed _ hu =>
    cases hu with
    | commanded | redirected => exact .inl rfl
    | begun d v hmode =>
      exact .inr (.inr ⟨by simp [beginRun, f32Zero], .inl (.inl ⟨hj, hmode, by simp [beginRun], by simp [beginRun]⟩)⟩)
  | motorStop => exact .inr (.inr ⟨by simp [f32Zero], .inl (.inr (.inl hj))⟩)
  | rampStart => left; simp
  | _ => exact .inl rfl

theorem fastTickEffect_meas {s u : State} (hu : FastTickEffect s u) : MeasuredOrCleared .fastTick s u := by
  cases hu with
  | ran a b _ hu => cases hu <;> exact .inl rfl
  | stalled _ _ _ _ _ hstalled =>
    exact .inr (.inr ⟨by simp [f32Zero], .inl (.inr (.inr (.inr (.inr (.inl ⟨rfl, hstalled⟩)))))⟩)

theorem lowTickEffect_meas {s u : State} (hu : LowTickEffect s u) : MeasuredOrCleared .lowTick s u := by
  cases hu with
  | reversed hdue => exact .inr (.inr ⟨by simp [f32Zero], .inl (.inr (.inr (.inr (.inl ⟨rfl, hdue⟩))))⟩)
  | regulated =>
    cases hvalid : s.bemf.valid with
    | false =>
      refine .inl ?_
      simp [tickSpeed, hvalid]
    | true => exact .inr (.inl ⟨rfl, hvalid, rfl⟩)

theorem expiryEffect_meas {s u : State} (hu : ExpiryEffect s u) : MeasuredOrCleared .timerExpire s u := by
  cases hu with
  | rampEnded htag hactive howner hdone =>
    rw [RampDone, satadd32_toNat] at hdone
    exact .inr (.inr ⟨by simp [f32Zero], .inl (.inr (.inr (.inr (.inr (.inr ⟨rfl, htag, hactive, howner, hdone⟩)))))⟩)
  | _ => left; simp

theorem eventEffect_meas {i : Instr} {s u : State} (hu : EventEffect i s u) : MeasuredOrCleared i s u := by
  cases hu with
  | kept | configured | sampled => exact .inl rfl
  | command j _ hj hu => exact commandEffect_meas hj hu
  | fastTick _ hi hu => exact hi ▸ fastTickEffect_meas hu
  | lowTick _ hi hu => exact hi ▸ lowTickEffect_meas hu
  | expired _ hi _ hu => exact hi ▸ expiryEffect_meas hu
  | faulted hi => exact .inr (.inr ⟨rfl, .inl (.inr (.inr (.inl hi)))⟩)
  | restarted hi => exact .inr (.inr ⟨rfl, .inr hi⟩)

theorem exec_meas {i : Instr} {s t : State} (h : exec i s = .next t) : MeasuredOrCleared i s t := by
  obtain ⟨data, error, u, f, hu, rfl⟩ := exec_eventRan h
  exact eventEffect_meas (s := respond data error s) (u := u) hu

/-- Settles O51: the second clause is the first with its cases excluded. -/
theorem speedChangesOnlyWhenMeasured : Obligations.SpeedChangesOnlyWhenMeasured := by
  intro i s t h
  refine ⟨fun hchanged => (exec_meas h).resolve_left hchanged, fun hinvalid hrun hreset => ?_⟩
  rcases exec_meas h with hkept | ⟨_, hvalid, _⟩ | ⟨_, hends | hi⟩
  · exact hkept
  · rw [hinvalid] at hvalid
    cases hvalid
  · exact absurd hends hrun
  · exact absurd hi hreset

end Sys2Proof.Machine
end

section
/-! A step never faults (rules R253, R489): an event that is no expiry always completes, and the step takes an expiry
only of an armed slot, which is tagged. -/

namespace Sys2Proof.Machine

theorem command_next (opc : BitVec 8) (checks : List CmdErr) (effect : State → State) (s : State) :
    ∃ t, command opc checks effect s = .next t := by
  rcases command_cases (rfl : command opc checks effect s = _) with ⟨_, h⟩ | ⟨_, h⟩ <;> exact ⟨_, h⟩

theorem exec_command_next {i : Instr} (hi : i.isCommand = true) (s : State) : ∃ t, exec i s = .next t := by
  cases i with
  | invCommutate d step =>
    rw [exec, execInvCommutate]
    split
    · exact ⟨_, rfl⟩
    · exact command_next _ _ _ s
  | invSetPhase phase st =>
    rw [exec, execInvSetPhase]
    split
    · exact command_next _ _ _ s
    all_goals exact ⟨_, rfl⟩
  | reset | adcSample | fastTick | lowTick | timerExpire | faultIn | hostWrite | hostRead | timeAdvance => cases hi
  | _ =>
    rw [exec]
    exact command_next _ _ _ s

theorem execHostWrite_next (off v : Word) (n : AccessWidth) (s : State) : ∃ t, execHostWrite off v n s = .next t := by
  rcases execHostWrite_cases off v n s with ⟨_, h⟩ | ⟨_, _, h⟩ | ⟨_, _, h⟩ <;> rw [h]
  · exact ⟨_, rfl⟩
  · rcases runCommandWord_cases v (respond 0 false s) with ⟨_, _, hw⟩ | ⟨i, _, hi, hw⟩ | ⟨_, _, _, hw⟩ <;> rw [hw]
    · exact ⟨_, rfl⟩
    · exact exec_command_next hi _
    · exact ⟨_, rfl⟩
  · exact ⟨_, rfl⟩

/-- Every input event completes. -/
theorem exec_input_next {i : Instr} (hi : i.isInput = true) (s : State) : ∃ t, exec i s = .next t := by
  cases i with
  | reset | adcSample | fastTick | lowTick | faultIn | timeAdvance => exact ⟨_, rfl⟩
  | hostWrite off v n => exact execHostWrite_next off v n s
  | hostRead off n =>
    rw [exec, execHostRead]
    split <;> exact ⟨_, rfl⟩
  | _ => cases hi

/-- The expiry of an armed slot completes when the slot is tagged. -/
theorem exec_timerExpire_next {s : State} (hslot : SlotTagged s) (hactive : s.sched.active = true) :
    ∃ t, exec .timerExpire s = .next t := by
  have htag : s.sched.tag ≠ .none := fun hnone => by
    rw [hslot.mp hnone] at hactive
    cases hactive
  exact ⟨_, exec_timerExpire_of_pending hactive htag⟩

/-- An accepted record is an input event. -/
theorem isInput_of_screenInput {r : InputRecord} {s : State} {i : Instr} (h : screenInput r s = .ok i) :
    i.isInput = true := by
  unfold screenInput at h
  split at h
  · cases h
  · next j hdecode =>
    obtain ⟨hinput, _⟩ := eventRecordsHaveOneMeaning _ _ _ hdecode
    split at h <;> cases h
    exact hinput

/-- A record is refused because it is no event or is out of order. -/
theorem refusal_of_screenInput {r : InputRecord} {s : State} {why : Refusal} (h : screenInput r s = .error why) :
    (∃ reject, why = .notAnEvent reject) ∨ why = .timeOrder := by
  unfold screenInput at h
  split at h
  · cases h; exact .inl ⟨_, rfl⟩
  · split at h <;> cases h
    exact .inr rfl

/-- Settles O44, by the branches of a step. -/
theorem stepNeverFaults : Obligations.StepNeverFaults := by
  intro s hslot
  rcases step_cases (rfl : step s = _) with ⟨_, h⟩ | ⟨r, rest, _, ⟨why, hwhy, h⟩ | ⟨i, _, hfirst, h⟩ | ⟨i, hi, _, h⟩⟩
  · exact .inl ⟨s, h⟩
  · rcases refusal_of_screenInput hwhy with ⟨reject, rfl⟩ | rfl
    · exact .inr (.inl ⟨reject, h⟩)
    · exact .inr (.inr h)
  · obtain ⟨_, hactive, _⟩ := (expiryFirst_iff i r.t s).mp hfirst
    obtain ⟨t, ht⟩ := exec_timerExpire_next hslot hactive
    exact .inl ⟨t, h.trans ht⟩
  · obtain ⟨t, ht⟩ := exec_input_next (isInput_of_screenInput hi) (takeInput r.t rest s)
    exact .inl ⟨t, h.trans ht⟩

end Sys2Proof.Machine
end

section
/-! The register window as a whole (rules R31 to R61): the field registers as sums of their fields, the values that
`RESET` leaves, and the state read back from the window. -/

namespace Sys2Proof.Machine

/-! ### The field registers (rules R32, R35, R52, R54, R56 to R59) -/

theorem cmdStatusWord_toNat (s : State) :
    (cmdStatusWord s).toNat = s.iface.lastOpc.toNat + 2 ^ 8 * (cmdErrCode s.iface.lastErr).toNat := by
  simp only [cmdStatusWord, append_toNat, BitVec.toNat_ofNat]
  omega

theorem statusWord_toNat (s : State) :
    (statusWord s).toNat =
      (modeCode s.ctl.mode).toNat + 2 ^ 2 * s.ctl.aligning.toNat + 2 ^ 3 * s.ramp.active.toNat +
      2 ^ 4 * (ownerBit s.ramp.owner).toNat + 2 ^ 5 * s.sched.active.toNat + 2 ^ 8 * s.bemf.zcFlag.toNat +
      2 ^ 9 * s.bemf.valid.toNat + 2 ^ 10 * s.bemf.initDone.toNat + 2 ^ 12 * s.comm.armed.toNat +
      2 ^ 13 * s.comm.transition.toNat + 2 ^ 14 * s.comm.handoverArmed.toNat +
      2 ^ 16 * s.speed.reversePending.toNat + 2 ^ 17 * (dirBit s.speed.motorDir).toNat +
      2 ^ 20 * s.ctl.faultLatched.toNat + 2 ^ 24 * s.adc.isNew.toNat + 2 ^ 25 * s.adc.overrun.toNat +
      2 ^ 28 * (stopCauseCode s.ctl.stopCause).toNat := by
  simp only [statusWord, append_toNat, BitVec.toNat_ofBool, BitVec.toNat_ofNat]
  omega

theorem bemfStatWord_toNat (b : Bemf) :
    (bemfStatWord b).toNat =
      b.zcFlag.toNat + 2 * b.valid.toNat + 2 ^ 2 * (cphaseCode b.zcPhase).toNat + 2 ^ 4 * b.initDone.toNat +
      2 ^ 5 * b.baselineDone.toNat + 2 ^ 6 * b.periodSeeded.toNat + 2 ^ 8 * b.prevOk.a.toNat +
      2 ^ 9 * b.prevOk.b.toNat + 2 ^ 10 * b.prevOk.c.toNat := by
  simp only [bemfStatWord, append_toNat, BitVec.toNat_ofBool, BitVec.toNat_ofNat]
  omega

theorem commStateWord_toNat (c : Comm) :
    (commStateWord c).toNat =
      c.step.val + 2 ^ 4 * (dirBit c.dir).toNat + 2 ^ 8 * (cphaseCode c.float).toNat := by
  simp only [commStateWord, append_toNat, stepCode_toNat, BitVec.toNat_ofNat]
  omega

theorem invStateWord_toNat (i : Inv) :
    (invStateWord i).toNat =
      (outStateCode i.ph.a).toNat + 2 ^ 4 * (outStateCode i.ph.b).toNat + 2 ^ 8 * (outStateCode i.ph.c).toNat := by
  simp only [invStateWord, append_toNat, BitVec.toNat_ofNat]
  omega

theorem schedStateWord_toNat (c : Sched) :
    (schedStateWord c).toNat = c.active.toNat + 2 ^ 4 * (tagCode c.tag).toNat := by
  simp only [schedStateWord, append_toNat, BitVec.toNat_ofBool, BitVec.toNat_ofNat]
  omega

theorem rampStateWord_toNat (r : Ramp) :
    (rampStateWord r).toNat =
      r.active.toNat + 2 * (ownerBit r.owner).toNat + 2 ^ 2 * (dirBit r.dir).toNat + 2 ^ 4 * r.step.val := by
  simp only [rampStateWord, append_toNat, stepCode_toNat, BitVec.toNat_ofBool, BitVec.toNat_ofNat]
  omega

theorem hoStateWord_toNat (h : Handover) :
    (hoStateWord h).toNat = h.step.val + 2 ^ 4 * (dirBit h.dir).toNat + 2 ^ 16 * h.streak.toNat := by
  simp only [hoStateWord, append_toNat, stepCode_toNat, BitVec.toNat_ofNat]
  omega

/-- Settles O36, by the sum of fields of each packed word. -/
theorem fieldRegistersMirror : Obligations.FieldRegistersMirror := fun s =>
  ⟨cmdStatusWord_toNat s, statusWord_toNat s, bemfStatWord_toNat s.bemf, bemfCountsWord_toNat s.bemf,
    commStateWord_toNat s.comm, invStateWord_toNat s.inv, schedStateWord_toNat s.sched, rampStateWord_toNat s.ramp,
    hoStateWord_toNat s.ho⟩

/-! ### The values after `RESET` (rules R31, R63, R530) -/

/-- `+0.0` is no NaN, so it reads as its pattern whatever NaN policy the machine has. -/
theorem bits_f32Zero (p : Instance) : bits p f32Zero = 0 := if_neg (by decide)

/-- Every register but `TIME_US` reads after `RESET` as right after power-on, whatever the parameters and the ports. -/
theorem readReg_reset (r : Reg) (hr : r ≠ .timeUs) (p : Instance) (e : Env) :
    readReg r { State.reset with inst := p, env := e } = readReg r State.reset := by
  cases r with
  | timeUs => exact absurd rfl hr
  | bemfPeriodUs | bemfPrevA | bemfPrevB | bemfPrevC | commDuty | invDuty | rampFreqHz | rampDuty | rampCtxDutyStart
  | rampCtxDutyEnd | rampCtxFreqStart | rampCtxFreqEnd | rampCtxLogK | hoDuty | speedCmdRpm | speedTargetRpm
  | speedMeasRpm | revBufRpm | duty | pidInteg | pidPrevErr | pidLastOut =>
    exact (bits_f32Zero p).trans (bits_f32Zero _).symm
  | _ => rfl

/-- The listed registers right after power-on read the values of rule R31's table. -/
theorem readReg_reset_eq_table :
    ∀ e ∈ regMap, e.1 ≠ 0x024 →
      e.2 ≠ .timeUs ∧ readReg e.2 State.reset = (resetTable.lookup e.1).getD 0 := by
  decide

/-- The table gives values of listed registers only. -/
theorem regAt_of_mem_resetTable : ∀ e ∈ resetTable, regAt e.1 ≠ none := by decide

theorem lookup_resetTable_of_unlisted {off : ℕ} (h : regAt off = none) : resetTable.lookup off = none := by
  rw [List.lookup_eq_none_iff]
  intro e he
  by_contra hoff
  obtain rfl : off = e.1 := by simpa using hoff
  exact regAt_of_mem_resetTable e he h

/-- Settles O21: each listed register reads its table entry, and unlisted offsets read 0. -/
theorem resetRestoresEveryElement : Obligations.ResetRestoresEveryElement := by
  refine fun s => ⟨_, rfl, rfl, rfl, fun off hoff => ?_⟩
  cases hr : regAt off with
  | none =>
    rw [memRead_of_regAt_none hr, lookup_resetTable_of_unlisted hr]
    rfl
  | some r =>
    obtain ⟨htime, hvalue⟩ := readReg_reset_eq_table _ (mem_regMap_of_regAt hr) hoff
    rw [memRead_of_regAt hr, readReg_reset r htime, hvalue]

end Sys2Proof.Machine
end

section
/-! No state is hidden (rule R65): every element is read back from the window, a field from its bits of its register, and
a datum from its pattern. -/

namespace Sys2Proof.Machine

/-! ### Codes and patterns determine what they stand for (rules R14, R36, R37, R50, R56 to R58, R480) -/

theorem dirBit_inj {a b : Dir} : dirBit a = dirBit b ↔ a = b := by cases a <;> cases b <;> decide

theorem ownerBit_inj {a b : Owner} : ownerBit a = ownerBit b ↔ a = b := by cases a <;> cases b <;> decide

theorem cphaseCode_inj {p q : CPhase} : cphaseCode p = cphaseCode q ↔ p = q := by cases p <;> cases q <;> decide

theorem modeCode_inj {a b : Mode} : modeCode a = modeCode b ↔ a = b := by cases a <;> cases b <;> decide

theorem stopCauseCode_inj {a b : StopCause} : stopCauseCode a = stopCauseCode b ↔ a = b := by
  cases a <;> cases b <;> decide

theorem cmdErrCode_inj {a b : CmdErr} : cmdErrCode a = cmdErrCode b ↔ a = b := by cases a <;> cases b <;> decide

theorem outStateCode_inj {a b : OutState} : outStateCode a = outStateCode b ↔ a = b := by
  cases a <;> cases b <;> decide

theorem tagCode_inj {a b : Tag} : tagCode a = tagCode b ↔ a = b := by cases a <;> cases b <;> decide

theorem bit_inj {a b : Bool} : bit a = bit b ↔ a = b := by cases a <;> cases b <;> decide

theorem stepCode_inj {a b : StepIx} : stepCode a = stepCode b ↔ a = b := by
  refine ⟨fun h => Fin.ext ?_, congrArg stepCode⟩
  rw [← stepCode_toNat a, ← stepCode_toNat b, h]

/-- A narrow register shows all its bits. -/
theorem setWidth_inj_of_le {m n : ℕ} (hle : m ≤ n) {x y : BitVec m} (h : x.setWidth n = y.setWidth n) : x = y := by
  apply BitVec.eq_of_toNat_eq
  rw [← BitVec.toNat_setWidth_of_le hle (b := x), ← BitVec.toNat_setWidth_of_le hle (b := y), h]

theorem append_inj {m n : ℕ} {x x' : BitVec m} {y y' : BitVec n} : x ++ y = x' ++ y' ↔ x = x' ∧ y = y' := by
  refine ⟨fun h => ⟨?_, ?_⟩, fun ⟨hx, hy⟩ => by rw [hx, hy]⟩
  · rw [← BitVec.extractLsb'_append_eq_left (a := x) (b := y), h, BitVec.extractLsb'_append_eq_left]
  · rw [← BitVec.extractLsb'_append_eq_right (a := x) (b := y), h, BitVec.extractLsb'_append_eq_right]

theorem isNaN_numNaN (n : QuietNaN) : (⟨numNaN n⟩ : F32).isNaN = true := by
  have hword := numNaN_toNat n
  have hpayload := n.payload.isLt
  unfold F32.isNaN F32.magnitude
  rw [decide_eq_true_eq]
  dsimp only
  rw [hword]
  cases n.negative <;> simp only [Bool.toNat_false, Bool.toNat_true] <;> omega

/-- A datum is read back from its pattern: `NUM_NAN` stands for the one NaN datum (rules R14, R16). -/
theorem bits_inj {p q : Instance} (hpq : p = q) {x y : F32} (hx : IsDatum x) (hy : IsDatum y)
    (h : bits p x = bits q y) : x = y := by
  subst hpq
  have hpattern {z w : F32} (hz : z.isNaN = true) (hw : w.isNaN = false) : bits p z ≠ bits p w := by
    rw [bits, bits, if_pos hz, if_neg (by simp [hw])]
    intro heq
    have hnan : w.isNaN = true := by
      rw [show w = ⟨numNaN p.numNaN⟩ by rw [heq]]
      exact isNaN_numNaN _
    rw [hnan] at hw
    cases hw
  cases hxn : x.isNaN with
  | true =>
    cases hyn : y.isNaN with
    | true => rw [hx hxn, hy hyn]
    | false => exact absurd h (hpattern hxn hyn)
  | false =>
    cases hyn : y.isNaN with
    | true => exact absurd h.symm (hpattern hyn hxn)
    | false =>
      rw [bits, bits, if_neg (by simp [hxn]), if_neg (by simp [hyn])] at h
      exact congrArg F32.mk h

/-! ### The fields of the field registers -/

theorem cmdStatusWord_fields {s t : State} (h : cmdStatusWord s = cmdStatusWord t) :
    s.iface.lastErr = t.iface.lastErr ∧ s.iface.lastOpc = t.iface.lastOpc := by
  simpa only [append_inj, cmdErrCode_inj, true_and] using append_inj.mp h

theorem statusWord_fields {s t : State} (h : statusWord s = statusWord t) :
    s.ctl.stopCause = t.ctl.stopCause ∧ s.adc.overrun = t.adc.overrun ∧ s.adc.isNew = t.adc.isNew ∧
      s.ctl.faultLatched = t.ctl.faultLatched ∧ s.speed.motorDir = t.speed.motorDir ∧
      s.speed.reversePending = t.speed.reversePending ∧ s.comm.handoverArmed = t.comm.handoverArmed ∧
      s.comm.transition = t.comm.transition ∧ s.comm.armed = t.comm.armed ∧ s.bemf.initDone = t.bemf.initDone ∧
      s.bemf.valid = t.bemf.valid ∧ s.bemf.zcFlag = t.bemf.zcFlag ∧ s.sched.active = t.sched.active ∧
      s.ramp.owner = t.ramp.owner ∧ s.ramp.active = t.ramp.active ∧ s.ctl.aligning = t.ctl.aligning ∧
      s.ctl.mode = t.ctl.mode := by
  simpa only [append_inj, stopCauseCode_inj, bit_inj, dirBit_inj, ownerBit_inj, modeCode_inj, true_and,
    and_true, and_assoc] using append_inj.mp h

theorem bemfStatWord_fields {a b : Bemf} (h : bemfStatWord a = bemfStatWord b) :
    a.prevOk.c = b.prevOk.c ∧ a.prevOk.b = b.prevOk.b ∧ a.prevOk.a = b.prevOk.a ∧ a.periodSeeded = b.periodSeeded ∧
      a.baselineDone = b.baselineDone ∧ a.initDone = b.initDone ∧ a.zcPhase = b.zcPhase ∧ a.valid = b.valid ∧
      a.zcFlag = b.zcFlag := by
  simpa only [append_inj, bit_inj, cphaseCode_inj, true_and, and_true, and_assoc] using append_inj.mp h

theorem commStateWord_fields {a b : Comm} (h : commStateWord a = commStateWord b) :
    a.float = b.float ∧ a.dir = b.dir ∧ a.step = b.step := by
  simpa only [append_inj, cphaseCode_inj, dirBit_inj, stepCode_inj, true_and, and_true, and_assoc]
    using append_inj.mp h

theorem invStateWord_fields {a b : Inv} (h : invStateWord a = invStateWord b) :
    a.ph.c = b.ph.c ∧ a.ph.b = b.ph.b ∧ a.ph.a = b.ph.a := by
  simpa only [append_inj, outStateCode_inj, true_and, and_true, and_assoc] using append_inj.mp h

theorem schedStateWord_fields {a b : Sched} (h : schedStateWord a = schedStateWord b) :
    a.tag = b.tag ∧ a.active = b.active := by
  simpa only [append_inj, tagCode_inj, bit_inj, true_and, and_true, and_assoc] using append_inj.mp h

theorem rampStateWord_fields {a b : Ramp} (h : rampStateWord a = rampStateWord b) :
    a.step = b.step ∧ a.dir = b.dir ∧ a.owner = b.owner ∧ a.active = b.active := by
  simpa only [append_inj, stepCode_inj, dirBit_inj, ownerBit_inj, bit_inj, true_and, and_true, and_assoc]
    using append_inj.mp h

theorem hoStateWord_fields {a b : Handover} (h : hoStateWord a = hoStateWord b) :
    a.streak = b.streak ∧ a.dir = b.dir ∧ a.step = b.step := by
  simpa only [append_inj, dirBit_inj, stepCode_inj, true_and, and_true, and_assoc] using append_inj.mp h

/-! ### The elements, unit by unit -/

/-- Every offset of the window but `TIME_US` reads the same. -/
def SameWindow (s t : State) : Prop := ∀ off, off ≠ 0x024 → memRead off s = memRead off t

namespace SameWindow

variable {s t : State}

theorem halves (h : SameWindow s t) {x y : Half} (off : ℕ) (hoff : off ≠ 0x024)
    (hx : memRead off s = x.setWidth 32) (hy : memRead off t = y.setWidth 32) : x = y :=
  setWidth_inj_of_le (by decide) (hx.symm.trans ((h off hoff).trans hy))

theorem status (h : SameWindow s t) : statusWord s = statusWord t := h 0x020 (by decide)

theorem iface (h : SameWindow s t) : s.iface = t.iface := by
  obtain ⟨herr, hopc⟩ := cmdStatusWord_fields (h 0x008 (by decide))
  exact (Iface.mk.injEq ..).mpr
    ⟨hopc, herr, h 0x010 (by decide), h 0x014 (by decide), h 0x018 (by decide), h 0x01C (by decide)⟩

theorem cfg (h : SameWindow s t) : s.cfg = t.cfg := by
  have halign : s.cfg.alignStep = t.cfg.alignStep :=
    stepCode_inj.mp (setWidth_inj_of_le (n := 32) (by decide) (h 0x0C0 (by decide)))
  have hprofile : s.cfg.rampProfile = t.cfg.rampProfile :=
    setWidth_inj_of_le (n := 32) (by decide) (h 0x094 (by decide))
  exact (Cfg.mk.injEq ..).mpr
    ⟨h 0x040 (by decide), h 0x044 (by decide), h 0x048 (by decide), h 0x04C (by decide),
      h.halves 0x050 (by decide) rfl rfl, h.halves 0x054 (by decide) rfl rfl, h 0x058 (by decide), h 0x05C (by decide),
      h 0x080 (by decide), h 0x084 (by decide), h 0x088 (by decide), h 0x08C (by decide), h 0x090 (by decide),
      hprofile, h 0x098 (by decide), h 0x09C (by decide),
      halign, h 0x0C4 (by decide), h 0x0C8 (by decide), h 0x0CC (by decide), h.halves 0x0D0 (by decide) rfl rfl,
      h 0x0D4 (by decide), h 0x0D8 (by decide), h 0x0DC (by decide), h 0x0E0 (by decide), h 0x0E4 (by decide),
      h 0x0E8 (by decide),
      h.halves 0x100 (by decide) rfl rfl, h 0x104 (by decide), h 0x108 (by decide), h 0x10C (by decide),
      h 0x110 (by decide), h 0x114 (by decide), h 0x118 (by decide), h 0x11C (by decide), h 0x120 (by decide),
      h 0x124 (by decide), h 0x128 (by decide)⟩

theorem ctl (h : SameWindow s t) : s.ctl = t.ctl := by
  obtain ⟨hcause, _, _, hfault, _, _, _, _, _, _, _, _, _, _, _, haligning, hmode⟩ := statusWord_fields h.status
  exact (Ctl.mk.injEq ..).mpr ⟨hmode, haligning, hcause, hfault⟩

theorem adc (h : SameWindow s t) : s.adc = t.adc := by
  obtain ⟨_, hoverrun, hnew, _⟩ := statusWord_fields h.status
  have hcurrents : s.adc.i = t.adc.i := (Tri.mk.injEq ..).mpr
    ⟨h.halves 0x2E0 (by decide) rfl rfl, h.halves 0x2E4 (by decide) rfl rfl, h.halves 0x2E8 (by decide) rfl rfl⟩
  have hvoltages : s.adc.v = t.adc.v := (Tri.mk.injEq ..).mpr
    ⟨h.halves 0x2EC (by decide) rfl rfl, h.halves 0x2F0 (by decide) rfl rfl, h.halves 0x2F4 (by decide) rfl rfl⟩
  exact (Adc.mk.injEq ..).mpr ⟨hcurrents, hvoltages, hnew, hoverrun⟩

theorem sched (h : SameWindow s t) : s.sched = t.sched := by
  obtain ⟨htag, hactive⟩ := schedStateWord_fields (h 0x240 (by decide))
  exact (Sched.mk.injEq ..).mpr ⟨hactive, h 0x244 (by decide), htag, h 0x248 (by decide)⟩

theorem bemf (h : SameWindow s t) (hinst : s.inst = t.inst) (hs : DataCanonical s) (ht : DataCanonical t) :
    s.bemf = t.bemf := by
  obtain ⟨hokC, hokB, hokA, hseeded, hbase, hinit, hphase, hvalid, hflag⟩ := bemfStatWord_fields (h 0x208 (by decide))
  obtain ⟨hinvalidCnt, hvalidCnt⟩ := append_inj.mp (h 0x20C (by decide))
  have hok : s.bemf.prevOk = t.bemf.prevOk := (Tri.mk.injEq ..).mpr ⟨hokA, hokB, hokC⟩
  have hprev : s.bemf.prev = t.bemf.prev := (Tri.mk.injEq ..).mpr
    ⟨bits_inj hinst hs.prevA ht.prevA (h 0x210 (by decide)), bits_inj hinst hs.prevB ht.prevB (h 0x214 (by decide)),
      bits_inj hinst hs.prevC ht.prevC (h 0x218 (by decide))⟩
  have hperiod := bits_inj hinst hs.period ht.period (h 0x204 (by decide))
  exact (Bemf.mk.injEq ..).mpr
    ⟨hinit, hok, hprev, hbase, h 0x200 (by decide), hseeded, hperiod, hvalidCnt, hinvalidCnt, hvalid, hflag, hphase,
      h 0x21C (by decide)⟩

theorem comm (h : SameWindow s t) (hinst : s.inst = t.inst) (hs : DataCanonical s) (ht : DataCanonical t) :
    s.comm = t.comm := by
  obtain ⟨hfloat, hdir, hstep⟩ := commStateWord_fields (h 0x220 (by decide))
  obtain ⟨_, _, _, _, _, _, hhandover, htransition, harmed, _⟩ := statusWord_fields h.status
  have hduty := bits_inj hinst hs.commDuty ht.commDuty (h 0x224 (by decide))
  exact (Comm.mk.injEq ..).mpr
    ⟨hstep, hdir, hfloat, hduty, h 0x228 (by decide), h 0x22C (by decide), harmed, htransition, hhandover⟩

theorem inv (h : SameWindow s t) (hinst : s.inst = t.inst) (hs : DataCanonical s) (ht : DataCanonical t) :
    s.inv = t.inv := by
  obtain ⟨hc, hb, ha⟩ := invStateWord_fields (h 0x230 (by decide))
  have hduty := bits_inj hinst hs.invDuty ht.invDuty (h 0x234 (by decide))
  exact (Inv.mk.injEq ..).mpr ⟨(Tri.mk.injEq ..).mpr ⟨ha, hb, hc⟩, hduty⟩

theorem rampCtx (h : SameWindow s t) (hinst : s.inst = t.inst) (hs : DataCanonical s) (ht : DataCanonical t) :
    s.ramp.ctx = t.ramp.ctx := by
  have hprofile : s.ramp.ctx.prof = t.ramp.ctx.prof :=
    setWidth_inj_of_le (n := 32) (by decide) (h 0x27C (by decide))
  exact (RampCtx.mk.injEq ..).mpr
    ⟨bits_inj hinst hs.ctxDs ht.ctxDs (h 0x268 (by decide)), bits_inj hinst hs.ctxDe ht.ctxDe (h 0x26C (by decide)),
      bits_inj hinst hs.ctxFs ht.ctxFs (h 0x270 (by decide)), bits_inj hinst hs.ctxFe ht.ctxFe (h 0x274 (by decide)),
      h 0x278 (by decide), hprofile, bits_inj hinst hs.ctxLogK ht.ctxLogK (h 0x280 (by decide))⟩

theorem ramp (h : SameWindow s t) (hinst : s.inst = t.inst) (hs : DataCanonical s) (ht : DataCanonical t) :
    s.ramp = t.ramp := by
  obtain ⟨hstep, hdir, howner, hactive⟩ := rampStateWord_fields (h 0x250 (by decide))
  have hfreq := bits_inj hinst hs.rampFreq ht.rampFreq (h 0x25C (by decide))
  have hduty := bits_inj hinst hs.rampDuty ht.rampDuty (h 0x260 (by decide))
  exact (Ramp.mk.injEq ..).mpr
    ⟨hactive, howner, hdir, hstep, h 0x254 (by decide), h 0x258 (by decide), hfreq, hduty, h 0x264 (by decide),
      h.rampCtx hinst hs ht⟩

theorem ho (h : SameWindow s t) (hinst : s.inst = t.inst) (hs : DataCanonical s) (ht : DataCanonical t) :
    s.ho = t.ho := by
  obtain ⟨hstreak, hdir, hstep⟩ := hoStateWord_fields (h 0x290 (by decide))
  exact (Handover.mk.injEq ..).mpr
    ⟨hstep, hdir, bits_inj hinst hs.hoDuty ht.hoDuty (h 0x294 (by decide)), hstreak⟩

theorem speed (h : SameWindow s t) (hinst : s.inst = t.inst) (hs : DataCanonical s) (ht : DataCanonical t) :
    s.speed = t.speed := by
  obtain ⟨_, _, _, _, hdir, hpending, _⟩ := statusWord_fields h.status
  exact (Speed.mk.injEq ..).mpr
    ⟨hdir, bits_inj hinst hs.speedCmd ht.speedCmd (h 0x2A0 (by decide)),
      bits_inj hinst hs.speedTarget ht.speedTarget (h 0x2A4 (by decide)),
      bits_inj hinst hs.speedMeas ht.speedMeas (h 0x2A8 (by decide)),
      bits_inj hinst hs.revBuf ht.revBuf (h 0x2AC (by decide)), hpending,
      bits_inj hinst hs.duty ht.duty (h 0x2B0 (by decide))⟩

theorem pid (h : SameWindow s t) (hinst : s.inst = t.inst) (hs : DataCanonical s) (ht : DataCanonical t) :
    s.pid = t.pid :=
  (Pid.mk.injEq ..).mpr
    ⟨bits_inj hinst hs.pidInteg ht.pidInteg (h 0x2C0 (by decide)),
      bits_inj hinst hs.pidPrevErr ht.pidPrevErr (h 0x2C4 (by decide)),
      bits_inj hinst hs.pidLastOut ht.pidLastOut (h 0x2C8 (by decide))⟩

end SameWindow

/-- Settles O54: each unit is read back. -/
theorem stateIsReadable : Obligations.StateIsReadable := by
  intro s t hinst hs ht hread
  have h : SameWindow s t := hread
  exact (State.mk.injEq ..).mpr
    ⟨hinst.symm, h.iface.symm, h.cfg.symm, h.ctl.symm, (h.bemf hinst hs ht).symm, h.adc.symm,
      (h.comm hinst hs ht).symm, (h.inv hinst hs ht).symm, h.sched.symm, (h.ramp hinst hs ht).symm,
      (h.ho hinst hs ht).symm, (h.speed hinst hs ht).symm, (h.pid hinst hs ht).symm, rfl⟩

end Sys2Proof.Machine
end

section
/-! A host write stores a legal value in its one register (rules R40, R43, R44, R105 to R107, R122).  The read-write
registers are the rows of one list, and a write replaces at most its own row of their values. -/

namespace Sys2Proof.Machine

/-! ### The read-write registers (rule R31) -/

/-- The rows of the operand registers (rule R33). -/
def mapOperands : List (ℕ × Reg) := [(0x010, .arg0), (0x014, .arg1), (0x018, .arg2), (0x01C, .arg3)]

/-- The rows of rule R31's map that the host can write, in its order. -/
def rwMap : List (ℕ × Reg) := mapOperands ++ mapBemfCfg ++ mapRampCfg ++ mapLoopCfg ++ mapSpeedCfg

/-- What the read-write registers read. -/
def rwWords (s : State) : List Word := rwMap.map fun e => readReg e.2 s

theorem regAt_of_mem_rwMap : ∀ e ∈ rwMap, regAt e.1 = some e.2 ∧ isWritable e.1 = true := by decide

/-- The offsets of rule R31's read-write ranges are those of the rows. -/
theorem mem_rwMap_of_isWritable {off : ℕ} (h : isWritable off = true) : ∃ e ∈ rwMap, e.1 = off := by
  have hrows : ∀ m < 75, isWritable (4 * m) = true → 4 * m ∈ rwMap.map (·.1) := by decide
  obtain ⟨m, rfl, hm⟩ : ∃ m, off = 4 * m ∧ m < 75 := by
    simp only [isWritable, Bool.and_eq_true, Bool.or_eq_true, decide_eq_true_eq] at h
    exact ⟨off / 4, by omega, by omega⟩
  exact List.mem_map.mp (hrows m hm h)

/-! ### Stored values (rules R40, R44) -/

/-- What the register at an offset, which read `old`, reads after a write of `v`. -/
def storedValue (off : ℕ) (v old : Word) : Word := if isLegalValue off v = true then keptBits off v else old

/-- The row `k` of the read-write registers stores a written value, and no other row changes. -/
def StoresAt (off : ℕ) (r : Reg) (k : ℕ) : Prop :=
  ∀ v s, rwWords (writeReg r v s) = (rwWords s).set k (storedValue off v (readReg r s))

/-- A register with a legal set stores a value if the set, by the model or by rule R44's words, lets it in. -/
theorem storesAt_of_warl {off : ℕ} {r : Reg} {k : ℕ} {legal : Word → Bool} {new : Word → Cfg → Cfg}
    (hwrite : ∀ v s, writeReg r v s = { s with cfg := warl (legal v) (new v s.cfg) s.cfg })
    (hlegal : ∀ v, legal v = isLegalValue off v)
    (hk : ∀ s, (rwWords s)[k]? = some (readReg r s))
    (hnew : ∀ v s, legal v = true → rwWords { s with cfg := new v s.cfg } = (rwWords s).set k (keptBits off v)) :
    StoresAt off r k := by
  intro v s
  rw [hwrite, storedValue, ← hlegal]
  cases hv : legal v with
  | true => exact hnew v s hv
  | false =>
    obtain ⟨hlt, hget⟩ := List.getElem?_eq_some_iff.mp (hk s)
    rw [if_neg Bool.false_ne_true, ← hget, List.set_getElem_self]
    rfl

/-- A 16-bit register reads the low half of the word written (rule R40). -/
theorem lowHalf_setWidth (v : Word) : (lowHalf v).setWidth 32 = v &&& 0xFFFF := by
  have hmask : (0xFFFF : Word).toNat = 2 ^ 16 - 1 := rfl
  apply BitVec.eq_of_toNat_eq
  rw [BitVec.toNat_and, hmask, Nat.and_two_pow_sub_one_eq_mod, BitVec.toNat_setWidth_of_le (by decide), lowHalf,
    BitVec.toNat_setWidth]

theorem lowHalf_ne_zero_iff (v : Word) : lowHalf v ≠ 0 ↔ v.toNat % 2 ^ 16 ≠ 0 := by
  rw [ne_eq, ne_eq, ← BitVec.toNat_inj, lowHalf, BitVec.toNat_setWidth]
  rfl

/-- A word below 4 is read back from its two low bits. -/
theorem setWidth_two_of_lt {v : Word} (h : v < 4) : (v.setWidth 2).setWidth 32 = v := by
  have hv : v.toNat < 4 := h
  apply BitVec.eq_of_toNat_eq
  rw [BitVec.toNat_setWidth_of_le (by decide), BitVec.toNat_setWidth]
  omega

/-! ### The rows -/

/-- A register of 32 bits with no legal set stores every value. -/
theorem storesAt_of_word {off : ℕ} {r : Reg} {k : ℕ} (h : ∀ v s, rwWords (writeReg r v s) = (rwWords s).set k v)
    (hstored : ∀ v old, storedValue off v old = v) : StoresAt off r k := fun v s => by
  rw [h, hstored]

/-- A register of 16 bits with no legal set stores the low half of every value. -/
theorem storesAt_of_half {off : ℕ} {r : Reg} {k : ℕ}
    (h : ∀ v s, rwWords (writeReg r v s) = (rwWords s).set k ((lowHalf v).setWidth 32))
    (hstored : ∀ v old, storedValue off v old = v &&& 0xFFFF) : StoresAt off r k := fun v s => by
  rw [h, hstored, lowHalf_setWidth]

theorem storesAt_rampProfile : StoresAt 0x094 .rampProfile 17 := by
  refine storesAt_of_warl (new := fun v c => { c with rampProfile := v.setWidth 2 }) (fun _ _ => rfl) (fun v => ?_)
    (fun _ => rfl) (fun v s hv => ?_)
  · exact decide_eq_decide.mpr (Nat.lt_succ_iff (m := v.toNat) (n := 3))
  · change (rwWords s).set 17 ((v.setWidth 2).setWidth 32) = (rwWords s).set 17 v
    rw [setWidth_two_of_lt (of_decide_eq_true hv)]

theorem storesAt_rampMinStepUs : StoresAt 0x09C .rampMinStepUs 19 := by
  refine storesAt_of_warl (new := fun v c => { c with rampMinStepUs := v }) (fun _ _ => rfl) (fun v => ?_)
    (fun _ => rfl) (fun _ _ _ => rfl)
  exact (Bool.decide_and (1 ≤ v.toNat) (v.toNat ≤ 0x7FFFFFFF)).symm

theorem storesAt_polePairs : StoresAt 0x100 .polePairs 31 := by
  refine storesAt_of_warl (new := fun v c => { c with polePairs := lowHalf v }) (fun _ _ => rfl) (fun v => ?_)
    (fun _ => rfl) (fun v s _ => ?_)
  · exact decide_eq_decide.mpr (lowHalf_ne_zero_iff v)
  · change (rwWords s).set 31 ((lowHalf v).setWidth 32) = (rwWords s).set 31 (v &&& 0xFFFF)
    rw [lowHalf_setWidth]

theorem storesAt_alignStep : StoresAt 0x0C0 .alignStep 20 := by
  intro v s
  by_cases hv : v.toNat < 6
  · have hcfg : writeCfg .alignStep v s.cfg = { s.cfg with alignStep := ⟨v.toNat, hv⟩ } := dif_pos hv
    have hread : (stepCode ⟨v.toNat, hv⟩).setWidth 32 = v := by rw [stepCode_setWidth, BitVec.ofNat_toNat, BitVec.setWidth_eq]
    have hstored : storedValue 0x0C0 v (readReg .alignStep s) = v :=
      if_pos (decide_eq_true (Nat.lt_succ_iff.mp hv))
    rw [hstored, writeReg, hcfg]
    change (rwWords s).set 20 ((stepCode ⟨v.toNat, hv⟩).setWidth 32) = _
    rw [hread]
  · have hcfg : writeCfg .alignStep v s.cfg = s.cfg := dif_neg hv
    have hstored : storedValue 0x0C0 v (readReg .alignStep s) = readReg .alignStep s :=
      if_neg fun hlegal => hv (Nat.lt_succ_iff.mpr (of_decide_eq_true hlegal))
    rw [hstored, writeReg, hcfg]
    rfl

/-! Each row stores what rules R40 and R44 let in, list by list in the order of the map. -/

theorem storesAt_mapOperands : ∀ e ∈ mapOperands.zipIdx 0, StoresAt e.1.1 e.1.2 e.2 := by
  simp only [mapOperands, List.zipIdx_cons, List.zipIdx_nil, List.forall_mem_cons, List.not_mem_nil, false_imp_iff, implies_true,
    and_true]
  refine ⟨?_, ?_, ?_, ?_⟩
  all_goals exact storesAt_of_word (fun _ _ => rfl) fun _ _ => rfl

theorem storesAt_mapBemfCfg : ∀ e ∈ mapBemfCfg.zipIdx 4, StoresAt e.1.1 e.1.2 e.2 := by
  simp only [mapBemfCfg, List.zipIdx_cons, List.zipIdx_nil, List.forall_mem_cons, List.not_mem_nil, false_imp_iff, implies_true,
    and_true]
  refine ⟨?_, ?_, ?_, ?_, storesAt_of_half (fun _ _ => rfl) fun _ _ => rfl,
    storesAt_of_half (fun _ _ => rfl) fun _ _ => rfl, ?_, ?_⟩
  all_goals exact storesAt_of_word (fun _ _ => rfl) fun _ _ => rfl

theorem storesAt_mapRampCfg : ∀ e ∈ mapRampCfg.zipIdx 12, StoresAt e.1.1 e.1.2 e.2 := by
  have hRampFreqStartHz : StoresAt 0x088 .rampFreqStartHz 14 :=
    storesAt_of_warl (new := fun v c => { c with rampFreqStartHz := v }) (fun _ _ => rfl) (fun _ => rfl) (fun _ => rfl) fun _ _ _ => rfl
  have hRampFreqEndHz : StoresAt 0x08C .rampFreqEndHz 15 :=
    storesAt_of_warl (new := fun v c => { c with rampFreqEndHz := v }) (fun _ _ => rfl) (fun _ => rfl) (fun _ => rfl) fun _ _ _ => rfl
  simp only [mapRampCfg, List.zipIdx_cons, List.zipIdx_nil, List.forall_mem_cons, List.not_mem_nil, false_imp_iff, implies_true,
    and_true]
  refine ⟨?_, ?_, hRampFreqStartHz, hRampFreqEndHz, ?_, storesAt_rampProfile, ?_, storesAt_rampMinStepUs⟩
  all_goals exact storesAt_of_word (fun _ _ => rfl) fun _ _ => rfl

theorem storesAt_mapLoopCfg : ∀ e ∈ mapLoopCfg.zipIdx 20, StoresAt e.1.1 e.1.2 e.2 := by
  have hAlignTimeUs : StoresAt 0x0C8 .alignTimeUs 22 :=
    storesAt_of_warl (new := fun v c => { c with alignTimeUs := v }) (fun _ _ => rfl) (fun _ => rfl) (fun _ => rfl) fun _ _ _ => rfl
  have hCommDelayMinUs : StoresAt 0x0DC .commDelayMinUs 27 :=
    storesAt_of_warl (new := fun v c => { c with commDelayMinUs := v }) (fun _ _ => rfl) (fun _ => rfl) (fun _ => rfl) fun _ _ _ => rfl
  have hCommDelayMaxUs : StoresAt 0x0E0 .commDelayMaxUs 28 :=
    storesAt_of_warl (new := fun v c => { c with commDelayMaxUs := v }) (fun _ _ => rfl) (fun _ => rfl) (fun _ => rfl) fun _ _ _ => rfl
  have hClStallTimeoutUs : StoresAt 0x0E8 .clStallTimeoutUs 30 :=
    storesAt_of_warl (new := fun v c => { c with clStallTimeoutUs := v }) (fun _ _ => rfl) (fun _ => rfl) (fun _ => rfl) fun _ _ _ => rfl
  simp only [mapLoopCfg, List.zipIdx_cons, List.zipIdx_nil, List.forall_mem_cons, List.not_mem_nil, false_imp_iff, implies_true,
    and_true]
  refine ⟨storesAt_alignStep, ?_, hAlignTimeUs, ?_, storesAt_of_half (fun _ _ => rfl) fun _ _ => rfl, ?_, ?_,
    hCommDelayMinUs, hCommDelayMaxUs, ?_, hClStallTimeoutUs⟩
  all_goals exact storesAt_of_word (fun _ _ => rfl) fun _ _ => rfl

theorem storesAt_mapSpeedCfg : ∀ e ∈ mapSpeedCfg.zipIdx 31, StoresAt e.1.1 e.1.2 e.2 := by
  have hSpeedSlopeRpm : StoresAt 0x104 .speedSlopeRpm 32 :=
    storesAt_of_warl (new := fun v c => { c with speedSlopeRpm := v }) (fun _ _ => rfl) (fun _ => rfl) (fun _ => rfl) fun _ _ _ => rfl
  have hPidTsS : StoresAt 0x118 .pidTsS 37 :=
    storesAt_of_warl (new := fun v c => { c with pidTsS := v }) (fun _ _ => rfl) (fun _ => rfl) (fun _ => rfl) fun _ _ _ => rfl
  have hPidOutMin : StoresAt 0x11C .pidOutMin 38 :=
    storesAt_of_warl (new := fun v c => { c with pidOutMin := v }) (fun _ _ => rfl) (fun _ => rfl) (fun _ => rfl) fun _ _ _ => rfl
  simp only [mapSpeedCfg, List.zipIdx_cons, List.zipIdx_nil, List.forall_mem_cons, List.not_mem_nil, false_imp_iff, implies_true,
    and_true]
  refine ⟨storesAt_polePairs, hSpeedSlopeRpm, ?_, ?_, ?_, ?_, hPidTsS, hPidOutMin, ?_, ?_, ?_⟩
  all_goals exact storesAt_of_word (fun _ _ => rfl) fun _ _ => rfl

theorem storesAt_rwMap : ∀ e ∈ rwMap.zipIdx, StoresAt e.1.1 e.1.2 e.2 := by
  simp only [rwMap, List.zipIdx_append, List.forall_mem_append]
  exact ⟨⟨⟨⟨storesAt_mapOperands, storesAt_mapBemfCfg⟩, storesAt_mapRampCfg⟩, storesAt_mapLoopCfg⟩, storesAt_mapSpeedCfg⟩

/-- The row at an index stores a written value, and no other row changes. -/
theorem storesAt_row {k : ℕ} (hk : k < rwMap.length) : StoresAt rwMap[k].1 rwMap[k].2 k :=
  storesAt_rwMap (rwMap[k], k) (List.mk_mem_zipIdx_iff_getElem?.mpr (List.getElem?_eq_getElem hk))

/-! ### All other registers (rules R32, R105, R106) -/

/-- A register ignores a write to it and does not show the read-write registers. -/
def ReadOnly (r : Reg) : Prop :=
  (∀ v s, writeReg r v s = s) ∧
    ∀ (s : State) (a0 a1 a2 a3 : Word) (c : Cfg), readReg r { setArgs s a0 a1 a2 a3 with cfg := c } = readReg r s

theorem readOnly_of_state : ∀ e ∈ mapBemf ++ mapComm ++ mapRamp ++ mapSpeed ++ mapAdc, ReadOnly e.2 := by
  simp only [mapBemf, mapComm, mapRamp, mapSpeed, mapAdc, List.forall_mem_append, List.forall_mem_cons,
    List.not_mem_nil, false_imp_iff, implies_true, and_true]
  repeat' apply And.intro
  all_goals
    intros
    rfl

theorem readOnly_of_interface : ∀ e ∈ mapInterface, e ∉ rwMap → ReadOnly e.2 := by
  have hrows : ∀ e ∈ mapInterface, e ∉ rwMap → e.2 ∈ [Reg.id, .cmd, .cmdStatus, .status, .timeUs] := by decide
  intro e he hnot
  have hr := hrows e he hnot
  generalize e.2 = r at hr
  simp only [List.mem_cons, List.not_mem_nil, or_false] at hr
  rcases hr with rfl | rfl | rfl | rfl | rfl <;> exact ⟨fun _ _ => rfl, fun _ _ _ _ _ _ => rfl⟩

theorem readOnly_of_not_row : ∀ e ∈ regMap, e ∉ rwMap → ReadOnly e.2 := by
  have hmap : ∀ e ∈ regMap, e ∈ mapInterface ∨ e ∈ rwMap ∨ e ∈ mapBemf ++ mapComm ++ mapRamp ++ mapSpeed ++ mapAdc := by
    decide
  intro e he hnot
  rcases hmap e he with hinterface | hrow | hstate
  · exact readOnly_of_interface e hinterface hnot
  · exact absurd hrow hnot
  · exact readOnly_of_state e hstate

/-! ### A write to the window -/

/-- A write reaches the operand registers and the configuration only. -/
theorem writeReg_eq_with (r : Reg) (v : Word) (s : State) :
    ∃ a0 a1 a2 a3 c, writeReg r v s = { setArgs s a0 a1 a2 a3 with cfg := c } := by
  refine ⟨(writeReg r v s).iface.arg0, (writeReg r v s).iface.arg1, (writeReg r v s).iface.arg2,
    (writeReg r v s).iface.arg3, (writeReg r v s).cfg, ?_⟩
  cases r <;> rfl

theorem memWrite_eq_with (off : ℕ) (v : Word) (s : State) :
    ∃ a0 a1 a2 a3 c, memWrite off v s = { setArgs s a0 a1 a2 a3 with cfg := c } := by
  unfold memWrite
  split
  · exact writeReg_eq_with _ v s
  · exact ⟨s.iface.arg0, s.iface.arg1, s.iface.arg2, s.iface.arg3, s.cfg, rfl⟩

/-- An offset that is no row's shows nothing of a write. -/
theorem memRead_memWrite_of_not_row {o : ℕ} (ho : ∀ e ∈ rwMap, e.1 ≠ o) (off : ℕ) (v : Word) (s : State) :
    memRead o (memWrite off v s) = memRead o s := by
  cases hr : regAt o with
  | none => rw [memRead_of_regAt_none hr, memRead_of_regAt_none hr]
  | some r =>
    obtain ⟨_, hread⟩ := readOnly_of_not_row _ (mem_regMap_of_regAt hr) fun hmem => ho _ hmem rfl
    obtain ⟨a0, a1, a2, a3, c, hwrite⟩ := memWrite_eq_with off v s
    rw [memRead_of_regAt hr, memRead_of_regAt hr, hwrite, hread]

/-- A write to an offset that is no row's is ignored. -/
theorem memWrite_of_not_row {off : ℕ} (hoff : ∀ e ∈ rwMap, e.1 ≠ off) (v : Word) (s : State) :
    memWrite off v s = s := by
  unfold memWrite
  split
  · next r hr =>
    obtain ⟨hwrite, _⟩ := readOnly_of_not_row _ (mem_regMap_of_regAt hr) fun hmem => hoff _ hmem rfl
    exact hwrite v s
  · rfl

theorem memRead_row {k : ℕ} (hk : k < rwMap.length) (s : State) :
    memRead rwMap[k].1 s = (rwWords s)[k]'(by simpa [rwWords] using hk) := by
  obtain ⟨hreg, _⟩ := regAt_of_mem_rwMap _ (List.getElem_mem hk)
  simp [memRead_of_regAt hreg, rwWords]

theorem rwWords_memWrite {k : ℕ} (hk : k < rwMap.length) (v : Word) (s : State) :
    rwWords (memWrite rwMap[k].1 v s) =
      (rwWords s).set k (storedValue rwMap[k].1 v (memRead rwMap[k].1 s)) := by
  obtain ⟨hreg, _⟩ := regAt_of_mem_rwMap _ (List.getElem_mem hk)
  rw [memWrite, hreg, memRead_of_regAt hreg]
  exact storesAt_row hk v s

theorem memRead_memWrite_self {k : ℕ} (hk : k < rwMap.length) (v : Word) (s : State) :
    memRead rwMap[k].1 (memWrite rwMap[k].1 v s) = storedValue rwMap[k].1 v (memRead rwMap[k].1 s) := by
  simp [memRead_row hk, rwWords_memWrite hk]

theorem memRead_memWrite_of_ne {off o : ℕ} (hne : o ≠ off) (v : Word) (s : State) :
    memRead o (memWrite off v s) = memRead o s := by
  by_cases hoff : ∀ e ∈ rwMap, e.1 ≠ off
  · rw [memWrite_of_not_row hoff]
  by_cases ho : ∀ e ∈ rwMap, e.1 ≠ o
  · exact memRead_memWrite_of_not_row ho off v s
  push Not at hoff ho
  obtain ⟨e, he, rfl⟩ := hoff
  obtain ⟨e', he', rfl⟩ := ho
  obtain ⟨k, hk, rfl⟩ := List.mem_iff_getElem.mp he
  obtain ⟨j, hj, rfl⟩ := List.mem_iff_getElem.mp he'
  have hjk : k ≠ j := by rintro rfl; exact hne rfl
  simp [memRead_row hj, rwWords_memWrite hk, hjk]

/-- A write-and-read of one offset (rules R44, R107). -/
theorem memRead_memWrite_same (off : ℕ) (v : Word) (s : State) :
    memRead off (memWrite off v s) =
      if isWritable off = true ∧ isLegalValue off v = true then keptBits off v else memRead off s := by
  by_cases hoff : isWritable off = true
  · obtain ⟨e, he, rfl⟩ := mem_rwMap_of_isWritable hoff
    obtain ⟨k, hk, rfl⟩ := List.mem_iff_getElem.mp he
    rw [memRead_memWrite_self hk, storedValue]
    simp [hoff]
  · have hrow : ∀ e ∈ rwMap, e.1 ≠ off := by
      rintro e he rfl
      obtain ⟨_, hwritable⟩ := regAt_of_mem_rwMap e he
      exact hoff hwritable
    rw [memWrite_of_not_row hrow, if_neg fun ⟨hwritable, _⟩ => hoff hwritable]

/-- Settles O33, by the read after a write at the same and at another offset. -/
theorem hostWriteStores : Obligations.HostWriteStores := by
  intro off v s halign hwindow hcmd
  refine ⟨_, exec_hostWrite_of_legal (accessError_eq_false halign hwindow) hcmd v s, ?frame⟩
  obtain ⟨a0, a1, a2, a3, c, hframe⟩ := memWrite_eq_with off.toNat v (respond 0 false s)
  refine ⟨by rw [hframe]; rfl, by rw [hframe]; rfl, by rw [hframe]; rfl, ?same, fun o ho => ?other⟩
  case same => rw [memRead_memWrite_same, memRead_respond]
  case other => rw [memRead_memWrite_of_ne ho, memRead_respond]

end Sys2Proof.Machine
end
